-- ==== Sys2Proof/Word.lean ====
section
/-! DEFINITION. The value types of the block: bytes (00_scope.md R15) and the two signed payload field types
(30_encoding.md R78). -/

namespace Sys2Proof

/-- A byte: 8 bits, unsigned (R15). -/
abbrev Byte := BitVec 8

/-- A payload field of type `int16`: 16 bits; its value is `BitVec.toInt`, two's complement (R78, log entry 19). -/
abbrev I16 := BitVec 16

/-- A payload field of type `int32`: 32 bits; its value is `BitVec.toInt`, two's complement (R78, log entry 19). -/
abbrev I32 := BitVec 32

end Sys2Proof
end

