-- ==== Sys2Proof/Config.lean ====
section
/-! DEFINITION. What is fixed when the block is built (00_scope.md R9 to R13): the constants the spec gives, the
parameters it leaves open, and the free values, of which nothing is known (opaque, no body). -/

namespace Sys2Proof

/-- `PAYLOAD_BYTE_ORDER` (R13, R58). -/
inductive ByteOrder where
  | little
  | big
deriving DecidableEq, Repr, Inhabited

/-- What a sink that reports answers: "`send(bytes) -> success/failure`" (R144, R147). -/
inductive SinkStatus where
  | success
  | failure
deriving DecidableEq, Repr, Inhabited

/-- The open parameters of the block (R9, R12, R13). The spec prints no value for any of them. -/
structure Config where
  sof : Byte
  eof : Byte
  cmdSetMotors : Byte
  cmdGetEncoders : Byte
  cmdResetEncoders : Byte
  cmdMoveSteps : Byte
  cmdGetMode : Byte
  msgEncoderData : Byte
  msgModeData : Byte
  msgAck : Byte
  msgError : Byte
  msgPong : Byte
  errBadChecksum : Byte
  errUnknownCommand : Byte
  byteOrder : ByteOrder
deriving DecidableEq, Repr, Inhabited

namespace Config

/-- `CMD_PING = 0x04`, the one identifier the source prints (R12). -/
abbrev cmdPing : Byte := 0x04

/-- `MAX_PAYLOAD` (R10). -/
abbrev maxPayload : Nat := 254

/-- `RX_BUF_SIZE` (R10, R24). -/
abbrev rxBufSize : Nat := 255

/-- `RX_LEN_LIMIT` (R10, 90_conflicts.md C1). -/
abbrev rxLenLimit : Nat := 255

/-- `FRAME_OVERHEAD` (R11, 90_conflicts.md C2). -/
abbrev frameOverhead : Nat := 5

/-- `MAX_FRAME` (R11). -/
abbrev maxFrame : Nat := maxPayload + frameOverhead

/-- The six command and five message identifiers (R12, R77). -/
def ids (c : Config) : List Byte :=
  [c.cmdSetMotors, c.cmdGetEncoders, c.cmdResetEncoders, cmdPing, c.cmdMoveSteps, c.cmdGetMode,
   c.msgEncoderData, c.msgModeData, c.msgAck, c.msgError, c.msgPong]

/-- The constraints the spec puts on the parameters: the delimiters differ (R9); the identifiers are pairwise
distinct, within and across the two spaces, and so are the two error codes (R12). -/
abbrev Wf (c : Config) : Prop :=
  c.sof ≠ c.eof ∧ c.ids.Nodup ∧ c.errBadChecksum ≠ c.errUnknownCommand

/-- The test instantiation T0 of 95_test_vectors.md, which is not a statement about the hardware (D28). -/
def t0 : Config where
  sof := 0xAA
  eof := 0x55
  cmdSetMotors := 0x01
  cmdGetEncoders := 0x02
  cmdResetEncoders := 0x03
  cmdMoveSteps := 0x05
  cmdGetMode := 0x06
  msgEncoderData := 0x81
  msgModeData := 0x82
  msgAck := 0x83
  msgError := 0x84
  msgPong := 0x85
  errBadChecksum := 0x01
  errUnknownCommand := 0x02
  byteOrder := .little

/-- The test instantiation T1 of 95_test_vectors.md: other delimiters. -/
def t1 : Config := { t0 with sof := 0x3C, eof := 0x3E }

/-- The parameters as the hardware's builder chose them: free (R9, R12, R13; log entry 1). -/
opaque free : Config

/-- The parameters of the built block: free, and within the spec's constraints. `t0` only stands in where `free`
breaks them, so that nothing but `Wf` is known of this value (log entry 1). -/
def build : Config := if free.Wf then free else t0

/-- The value of a register the spec leaves unspecified, by the number of free values drawn before it
(R35, R220; log entry 3). -/
opaque freeByte : Nat → Byte

/-- The value of `rx.idx` where the spec leaves it unspecified: free, within the limit that R36(c) sets for every state
reachable from reset, at most 254 (log entry 3). -/
opaque freeIndex : Nat → Fin rxBufSize

/-- The status of a sink whose answer no input names (R147, U11; log entry 5). -/
opaque freeSinkStatus : Nat → SinkStatus

/-- The answer of `get_encoders()` where no input names it: any pair of `int32` (R174, U16; log entry 6). -/
opaque freeEncoders : Nat → I32 × I32

end Config

end Sys2Proof
end

