-- ==== Sys2Proof/Machine/Operands.lean ====
section
/-! DEFINITION. Operand forms: the integer fields of a payload record (30_encoding.md R78, 43_dispatcher.md R175) and
the byte list of a frame (30_encoding.md R71, 42_encoder.md R141) less its checksum, which Machine/Flags.lean gives. -/

namespace Sys2Proof

/-- `i16(v)`: the two bytes of an `int16` field, lowest payload offset first (R58, R78). -/
def i16Bytes (o : ByteOrder) (v : I16) : List Byte :=
  match o with
  | .little => [v.extractLsb' 0 8, v.extractLsb' 8 8]
  | .big => [v.extractLsb' 8 8, v.extractLsb' 0 8]

/-- `dec_i16([b0, b1])` (R175). -/
def decI16 (o : ByteOrder) (b0 b1 : Byte) : I16 :=
  match o with
  | .little => b1 ++ b0
  | .big => b0 ++ b1

/-- `i32(v)`: the four bytes of an `int32` field, lowest payload offset first (R58, R78). -/
def i32Bytes (o : ByteOrder) (v : I32) : List Byte :=
  match o with
  | .little => [v.extractLsb' 0 8, v.extractLsb' 8 8, v.extractLsb' 16 8, v.extractLsb' 24 8]
  | .big => [v.extractLsb' 24 8, v.extractLsb' 16 8, v.extractLsb' 8 8, v.extractLsb' 0 8]

/-- `dec_i32([b0, b1, b2, b3])` (R175). -/
def decI32 (o : ByteOrder) (b0 b1 b2 b3 : Byte) : I32 :=
  match o with
  | .little => b3 ++ b2 ++ b1 ++ b0
  | .big => b0 ++ b1 ++ b2 ++ b3

/-- The length byte of a payload: its size in 8 bits (R142). -/
def lengthByte (payload : List Byte) : Byte := BitVec.ofNat 8 payload.length

/-- The payload record of a two-field `int16` frame (SetMotors, R77). -/
def pair16Bytes (o : ByteOrder) (a b : I16) : List Byte := i16Bytes o a ++ i16Bytes o b

/-- The payload record of a two-field `int32` frame (MoveSteps, EncoderData, R77). -/
def pair32Bytes (o : ByteOrder) (a b : I32) : List Byte := i32Bytes o a ++ i32Bytes o b

end Sys2Proof
end

