-- ==== Sys2Proof/Machine/Flags.lean ====
section
/-! DEFINITION. The values computed and consumed inside a step: the checksum (40_checksum.md R100), `csum_ok` (R104),
the guards of the payload transitions (41_receiver.md R118, R119), and the whole frame the encoder builds (R141). The
block keeps no flag between steps (10_state.md R30). -/

namespace Sys2Proof

/-- `CHECKSUM(id, length, payload)` (R100): `id ^ length`, then every payload byte in order. -/
def checksum (id length : Byte) (payload : List Byte) : Byte :=
  payload.foldl (fun fold b => fold ^^^ b) (id ^^^ length)

/-- `csum_ok` (R104). -/
def csumOk (id len : Byte) (payload : List Byte) (csum : Byte) : Bool :=
  checksum id len payload == csum

/-- The guard of `RX.PAY.MORE`: `rx.idx + 1 < rx.len`, without wrap (R118). -/
def payloadMore (idx len : Byte) : Bool := idx.toNat + 1 < len.toNat

/-- The guard of `RX.PAY.LAST`: `rx.idx + 1 == rx.len`, without wrap (R119). -/
def payloadLast (idx len : Byte) : Bool := idx.toNat + 1 == len.toNat

/-- The condition of `RX.LEN.OK`: `0 < b < RX_LEN_LIMIT` (R116). -/
def lengthAccepted (b : Byte) : Bool := 0 < b.toNat && b.toNat < Config.rxLenLimit

/-- The condition of `RX.LEN.OVER`: `b >= RX_LEN_LIMIT` (R117). -/
def lengthOver (b : Byte) : Bool := Config.rxLenLimit ≤ b.toNat

/-- The frame of `(id, payload)`: SOF, id, length, payload, checksum, EOF, nothing before, between or after (R71, R141). -/
def frameBytes (c : Config) (id : Byte) (payload : List Byte) : List Byte :=
  [c.sof, id, lengthByte payload] ++ payload ++ [checksum id (lengthByte payload) payload, c.eof]

end Sys2Proof
end

