-- ==== Sys2Proof/Syntax.lean ====
section
/-! DEFINITION. The operations of the block as terms: one constructor of `Instr` for every row of
spec/opcode_table.json, and what the decoder reads (30_encoding.md R82, R83, R90). -/

namespace Sys2Proof

/-- The six values of `rx.state`, in the source's order (10_state.md R21). -/
inductive RxState where
  | waitForSof
  | readId
  | readLength
  | readPayload
  | readChecksum
  | readEof
deriving DecidableEq, Repr

/-- `FrameOut(id, len, payload, csum, csum_ok)`, the receiver's only output (41_receiver.md R123). -/
structure FrameOut where
  id : Byte
  len : Byte
  payload : List Byte
  csum : Byte
  csumOk : Bool
deriving DecidableEq, Repr

/-- The eleven transitions of `RxByte` (R82, R112 to R122). -/
inductive RxOp where
  | waitSof
  | waitSkip
  | id
  | lenZero
  | lenOk
  | lenOver
  | payMore
  | payLast
  | csum
  | eofOk
  | eofBad
deriving DecidableEq, Repr

/-- The nine branches of the dispatcher with the fields a branch decodes (R83, R162 to R169). -/
inductive DispOp where
  | badCsum
  | setMotors (speed1 speed2 : I16)
  | setMotorsBadLen
  | getEncoders
  | resetEncoders
  | ping
  | moveSteps (steps1 steps2 : I32)
  | moveStepsBadLen
  | unknown
deriving DecidableEq, Repr

/-- The operations of spec/opcode_table.json, one constructor a row. A transition row carries the inbound byte `b`,
except where the row's condition fixes it (`b == SOF`, `b == 0x00`, `b == EOF`). -/
inductive Instr where
  -- format RXSTEP
  /-- `RX.WAIT.SOF` (R112) -/
  | rxWaitSof
  /-- `RX.WAIT.SKIP` (R113) -/
  | rxWaitSkip (b : Byte)
  /-- `RX.ID` (R114) -/
  | rxId (b : Byte)
  /-- `RX.LEN.ZERO` (R115) -/
  | rxLenZero
  /-- `RX.LEN.OK` (R116) -/
  | rxLenOk (b : Byte)
  /-- `RX.LEN.OVER` (R117) -/
  | rxLenOver (b : Byte)
  /-- `RX.PAY.MORE` (R118) -/
  | rxPayMore (b : Byte)
  /-- `RX.PAY.LAST` (R119) -/
  | rxPayLast (b : Byte)
  /-- `RX.CSUM` (R120) -/
  | rxCsum (b : Byte)
  /-- `RX.EOF.OK` (R121) -/
  | rxEofOk
  /-- `RX.EOF.BAD` (R122) -/
  | rxEofBad (b : Byte)
  -- format OP
  /-- `RESET` (R220) -/
  | reset
  /-- `CHECKSUM` (R100) -/
  | checksum (id length : Byte) (payload : List Byte)
  /-- `ENCODE` (R140) -/
  | encode (id : Byte) (payload : List Byte)
  -- format FRAME, the commands, host to device (R77)
  /-- `SETMOTORS` (R77, R163) -/
  | setMotors (speed1 speed2 : I16)
  /-- `GETENCODERS` (R77, R164) -/
  | getEncoders
  /-- `RESETENCODERS` (R77, R165) -/
  | resetEncoders
  /-- `PING` (R77, R166) -/
  | ping
  /-- `MOVESTEPS` (R77, R167) -/
  | moveSteps (steps1 steps2 : I32)
  /-- `GETMODE` (R77, R168) -/
  | getMode
  -- format FRAME, the messages, device to host (R77)
  /-- `ENCODERDATA` (R77, R172) -/
  | encoderData (val1 val2 : I32)
  /-- `MODEDATA` (R77, R79) -/
  | modeData (mode : Byte)
  /-- `ACK` (R77, R172) -/
  | ack (commandId : Byte)
  /-- `ERROR` (R77, R170) -/
  | error (code : Byte)
  /-- `PONG` (R77, R172) -/
  | pong
  -- format DISPATCH
  /-- `DISP.BADCSUM` (R162) -/
  | dispBadCsum
  /-- `DISP.SETMOTORS` (R163) -/
  | dispSetMotors (speed1 speed2 : I16)
  /-- `DISP.SETMOTORS.BADLEN` (R169) -/
  | dispSetMotorsBadLen
  /-- `DISP.GETENCODERS` (R164) -/
  | dispGetEncoders
  /-- `DISP.RESETENCODERS` (R165) -/
  | dispResetEncoders
  /-- `DISP.PING` (R166) -/
  | dispPing
  /-- `DISP.MOVESTEPS` (R167) -/
  | dispMoveSteps (steps1 steps2 : I32)
  /-- `DISP.MOVESTEPS.BADLEN` (R169) -/
  | dispMoveStepsBadLen
  /-- `DISP.UNKNOWN` (R168) -/
  | dispUnknown
deriving DecidableEq, Repr

/-- The row of a transition taken on byte `b`. -/
def RxOp.instr (b : Byte) : RxOp → Instr
  | .waitSof => .rxWaitSof
  | .waitSkip => .rxWaitSkip b
  | .id => .rxId b
  | .lenZero => .rxLenZero
  | .lenOk => .rxLenOk b
  | .lenOver => .rxLenOver b
  | .payMore => .rxPayMore b
  | .payLast => .rxPayLast b
  | .csum => .rxCsum b
  | .eofOk => .rxEofOk
  | .eofBad => .rxEofBad b

/-- The row of a dispatcher branch. -/
def DispOp.instr : DispOp → Instr
  | .badCsum => .dispBadCsum
  | .setMotors a b => .dispSetMotors a b
  | .setMotorsBadLen => .dispSetMotorsBadLen
  | .getEncoders => .dispGetEncoders
  | .resetEncoders => .dispResetEncoders
  | .ping => .dispPing
  | .moveSteps a b => .dispMoveSteps a b
  | .moveStepsBadLen => .dispMoveStepsBadLen
  | .unknown => .dispUnknown

/-- The formats of the table (R90). -/
inductive Format where
  | rxStep
  | op
  | frame
  | dispatch
deriving DecidableEq, Repr

/-- The format of an operation's row. -/
def Instr.format : Instr → Format
  | .rxWaitSof | .rxWaitSkip _ | .rxId _ | .rxLenZero | .rxLenOk _ | .rxLenOver _ | .rxPayMore _
  | .rxPayLast _ | .rxCsum _ | .rxEofOk | .rxEofBad _ => .rxStep
  | .reset | .checksum _ _ _ | .encode _ _ => .op
  | .setMotors _ _ | .getEncoders | .resetEncoders | .ping | .moveSteps _ _ | .getMode
  | .encoderData _ _ | .modeData _ | .ack _ | .error _ | .pong => .frame
  | .dispBadCsum | .dispSetMotors _ _ | .dispSetMotorsBadLen | .dispGetEncoders | .dispResetEncoders
  | .dispPing | .dispMoveSteps _ _ | .dispMoveStepsBadLen | .dispUnknown => .dispatch

/-- What the decoder reads, one shape for each format (R82, R83, R90). -/
inductive OpWord where
  /-- format RXSTEP: the code of `rx.state` (R81), the inbound byte, and the registers of the guards -/
  | rxStep (stateCode : BitVec 3) (b idx len : Byte)
  /-- format FRAME: the bytes of one whole frame on the wire (R71) -/
  | frame (bytes : List Byte)
  /-- format DISPATCH: the `FrameOut` whose `csum_ok`, `id` and `len` select the branch -/
  | dispatch (f : FrameOut)
  /-- format OP: an operation named by the model's own operation code, operand bytes after it (log entry 8) -/
  | coded (bytes : List Byte)
deriving DecidableEq, Repr

/-- The format of a word. -/
def OpWord.format : OpWord → Format
  | .rxStep _ _ _ _ => .rxStep
  | .frame _ => .frame
  | .dispatch _ => .dispatch
  | .coded _ => .op

/-- One pending input of the machine (R7, R17; log entry 7): an inbound byte, whose operation the receiver's state
selects, or an operation named outright. -/
inductive Input where
  | rxByte (b : Byte)
  | word (w : OpWord)
deriving DecidableEq, Repr

end Sys2Proof
end

