-- ==== Sys2Proof/WellFormed.lean ====
section
/-! DEFINITION. Which operation terms are operations of the block built with given parameters: the operand of a row
meets the row's condition (30_encoding.md R82, R84, R89, R103). -/

namespace Sys2Proof

/-- The check of one operation. The rows not listed with a condition admit every operand. -/
def Instr.wf (c : Config) : Instr → Bool
  | .rxWaitSkip b => b != c.sof
  | .rxLenOk b => lengthAccepted b
  | .rxLenOver b => lengthOver b
  | .rxEofBad b => b != c.eof
  | .checksum _ length payload => payload.length == length.toNat
  | .encode _ payload => decide (payload.length ≤ Config.maxPayload)
  | .error code => code == c.errBadChecksum || code == c.errUnknownCommand
  | .rxWaitSof | .rxId _ | .rxLenZero | .rxPayMore _ | .rxPayLast _ | .rxCsum _ | .rxEofOk
  | .reset
  | .setMotors _ _ | .getEncoders | .resetEncoders | .ping | .moveSteps _ _ | .getMode
  | .encoderData _ _ | .modeData _ | .ack _ | .pong
  | .dispBadCsum | .dispSetMotors _ _ | .dispSetMotorsBadLen | .dispGetEncoders | .dispResetEncoders
  | .dispPing | .dispMoveSteps _ _ | .dispMoveStepsBadLen | .dispUnknown => true

end Sys2Proof
end

