-- ==== Sys2Proof/Decode.lean ====
section
/-! DEFINITION. The decoder, total on every word and rejecting by name, and after it the encoder: the decode table of
`RxByte` (30_encoding.md R82), the frame formats (R71, R77), the dispatcher's decode (43_dispatcher.md R161 to R169) and
the model's own operation codes (log entry 8). -/

namespace Sys2Proof

/-- Why the decoder rejects a word. -/
inductive DecodeError where
  /-- RXSTEP: state codes 6 and 7 are illegal (R87) -/
  | illegalStateCode
  /-- RXSTEP: `ReadPayload` with `rx.idx + 1 > rx.len`, where no transition's condition holds (R124, log entry 20) -/
  | noTransition
  /-- FRAME: the first byte is not `SOF` -/
  | notSof
  /-- FRAME: fewer or more bytes than `5 + L` (R75) -/
  | wrongFrameSize
  /-- FRAME: length 255, the only illegal length (R84) -/
  | illegalLength
  /-- FRAME: the last byte is not `EOF` -/
  | notEof
  /-- FRAME: the checksum byte is not `CHECKSUM(id, L, payload)` -/
  | wrongChecksum
  /-- FRAME: the id is none of the eleven identifiers (R77) -/
  | unknownId
  /-- FRAME: `L` is not the record size of the id (R80) -/
  | wrongPayloadSize
  /-- FRAME: an Error frame whose code is neither of the two (R170) -/
  | unknownErrorCode
  /-- DISPATCH: the payload does not hold `len` bytes (R123, log entry 21) -/
  | unsizedFrameOut
  /-- OP: an operation code of no row (log entry 8) -/
  | unknownOperation
  /-- OP: the word ends before its operand bytes do (log entry 8) -/
  | truncated
deriving DecidableEq, Repr

/-- The 3-bit code of `rx.state` (R81). -/
def RxState.code : RxState → BitVec 3
  | .waitForSof => 0
  | .readId => 1
  | .readLength => 2
  | .readPayload => 3
  | .readChecksum => 4
  | .readEof => 5

/-- The state of a code; codes 6 and 7 are no state (R81, R87). -/
def RxState.ofCode (code : BitVec 3) : Option RxState :=
  if code = 0 then some .waitForSof
  else if code = 1 then some .readId
  else if code = 2 then some .readLength
  else if code = 3 then some .readPayload
  else if code = 4 then some .readChecksum
  else if code = 5 then some .readEof
  else none

/-- The decode table of `RxByte`: the state and the byte, and in `ReadPayload` the guard, select the transition (R82). -/
def decodeRx (c : Config) (st : RxState) (b idx len : Byte) : Except DecodeError RxOp :=
  match st with
  | .waitForSof => if b = c.sof then .ok .waitSof else .ok .waitSkip
  | .readId => .ok .id
  | .readLength =>
    if b = 0 then .ok .lenZero else if lengthAccepted b then .ok .lenOk else .ok .lenOver
  | .readPayload =>
    if payloadMore idx len then .ok .payMore
    else if payloadLast idx len then .ok .payLast
    else .error .noTransition
  | .readChecksum => .ok .csum
  | .readEof => if b = c.eof then .ok .eofOk else .ok .eofBad

/-- The dispatcher's decode: first the verdict, then the id, then, for SetMotors and MoveSteps only, the length
(R161 to R169). -/
def decodeDispatch (c : Config) (f : FrameOut) : Except DecodeError DispOp :=
  if f.csumOk = false then .ok .badCsum
  else if f.id = c.cmdSetMotors then
    if f.len = 4 then
      match f.payload with
      | [b0, b1, b2, b3] => .ok (.setMotors (decI16 c.byteOrder b0 b1) (decI16 c.byteOrder b2 b3))
      | _ => .error .unsizedFrameOut
    else .ok .setMotorsBadLen
  else if f.id = c.cmdGetEncoders then .ok .getEncoders
  else if f.id = c.cmdResetEncoders then .ok .resetEncoders
  else if f.id = Config.cmdPing then .ok .ping
  else if f.id = c.cmdMoveSteps then
    if f.len = 8 then
      match f.payload with
      | [b0, b1, b2, b3, b4, b5, b6, b7] =>
        .ok (.moveSteps (decI32 c.byteOrder b0 b1 b2 b3) (decI32 c.byteOrder b4 b5 b6 b7))
      | _ => .error .unsizedFrameOut
    else .ok .moveStepsBadLen
  else .ok .unknown

/-- The frame type of an id and the fields of its payload record (R77, R80). -/
def decodePayload (c : Config) (id : Byte) (payload : List Byte) : Except DecodeError Instr :=
  if id = c.cmdSetMotors then
    match payload with
    | [b0, b1, b2, b3] => .ok (.setMotors (decI16 c.byteOrder b0 b1) (decI16 c.byteOrder b2 b3))
    | _ => .error .wrongPayloadSize
  else if id = c.cmdGetEncoders then
    match payload with | [] => .ok .getEncoders | _ => .error .wrongPayloadSize
  else if id = c.cmdResetEncoders then
    match payload with | [] => .ok .resetEncoders | _ => .error .wrongPayloadSize
  else if id = Config.cmdPing then
    match payload with | [] => .ok .ping | _ => .error .wrongPayloadSize
  else if id = c.cmdMoveSteps then
    match payload with
    | [b0, b1, b2, b3, b4, b5, b6, b7] =>
      .ok (.moveSteps (decI32 c.byteOrder b0 b1 b2 b3) (decI32 c.byteOrder b4 b5 b6 b7))
    | _ => .error .wrongPayloadSize
  else if id = c.cmdGetMode then
    match payload with | [] => .ok .getMode | _ => .error .wrongPayloadSize
  else if id = c.msgEncoderData then
    match payload with
    | [b0, b1, b2, b3, b4, b5, b6, b7] =>
      .ok (.encoderData (decI32 c.byteOrder b0 b1 b2 b3) (decI32 c.byteOrder b4 b5 b6 b7))
    | _ => .error .wrongPayloadSize
  else if id = c.msgModeData then
    match payload with | [m] => .ok (.modeData m) | _ => .error .wrongPayloadSize
  else if id = c.msgAck then
    match payload with | [i] => .ok (.ack i) | _ => .error .wrongPayloadSize
  else if id = c.msgError then
    match payload with
    | [e] =>
      if e = c.errBadChecksum ∨ e = c.errUnknownCommand then .ok (.error e) else .error .unknownErrorCode
    | _ => .error .wrongPayloadSize
  else if id = c.msgPong then
    match payload with | [] => .ok .pong | _ => .error .wrongPayloadSize
  else .error .unknownId

/-- A whole frame on the wire: `[SOF][id][L][payload][checksum][EOF]`, `5 + L` bytes, `L` at offset 2 (R71, R73, R75). -/
def decodeFrame (c : Config) : List Byte → Except DecodeError Instr
  | sof :: id :: len :: rest =>
    if sof ≠ c.sof then .error .notSof
    else if lengthOver len then .error .illegalLength
    else
      match rest.drop len.toNat with
      | [csum, eof] =>
        if eof ≠ c.eof then .error .notEof
        else if csumOk id len (rest.take len.toNat) csum then decodePayload c id (rest.take len.toNat)
        else .error .wrongChecksum
      | _ => .error .wrongFrameSize
  | _ => .error .wrongFrameSize

/-- The first `n` operand bytes of a coded word. -/
def takeOperands (n : Nat) (bytes : List Byte) : Except DecodeError (List Byte) :=
  if n ≤ bytes.length then .ok (bytes.take n) else .error .truncated

/-- An operation with one `uint8` operand. -/
def coded1 (f : Byte → Instr) (bytes : List Byte) : Except DecodeError Instr :=
  match bytes with
  | b :: _ => .ok (f b)
  | _ => .error .truncated

/-- An operation with two `int16` operands, each low byte first (log entry 8). -/
def coded16 (f : I16 → I16 → Instr) (bytes : List Byte) : Except DecodeError Instr :=
  match bytes with
  | b0 :: b1 :: b2 :: b3 :: _ => .ok (f (decI16 .little b0 b1) (decI16 .little b2 b3))
  | _ => .error .truncated

/-- An operation with two `int32` operands, each low byte first (log entry 8). -/
def coded32 (f : I32 → I32 → Instr) (bytes : List Byte) : Except DecodeError Instr :=
  match bytes with
  | b0 :: b1 :: b2 :: b3 :: b4 :: b5 :: b6 :: b7 :: _ =>
    .ok (f (decI32 .little b0 b1 b2 b3) (decI32 .little b4 b5 b6 b7))
  | _ => .error .truncated

/-- An operation with an id, a length byte and that many payload bytes. -/
def codedPayload (f : Byte → Byte → List Byte → Instr) (bytes : List Byte) : Except DecodeError Instr :=
  match bytes with
  | id :: len :: rest =>
    match takeOperands len.toNat rest with
    | .ok payload => .ok (f id len payload)
    | .error e => .error e
  | _ => .error .truncated

/-- A word of the model's operation codes: one code byte, then operand bytes; bytes after them are ignored. The spec
gives the operations no bytes; these codes are the model's own (log entry 8). -/
def decodeCoded : List Byte → Except DecodeError Instr
  | [] => .error .truncated
  | code :: rest =>
    match code.toNat with
    | 0 => .ok .pong
    | 1 => coded1 (fun e => .error e) rest
    | 2 => coded1 .ack rest
    | 3 => coded1 .modeData rest
    | 4 => coded32 .encoderData rest
    | 5 => .ok .getMode
    | 6 => coded32 .moveSteps rest
    | 7 => .ok .ping
    | 8 => .ok .resetEncoders
    | 9 => .ok .getEncoders
    | 10 => coded16 .setMotors rest
    | 11 => codedPayload (fun id _ payload => .encode id payload) rest
    | 12 => codedPayload .checksum rest
    | 13 => .ok .reset
    | 14 => .ok .rxWaitSof
    | 15 => coded1 .rxWaitSkip rest
    | 16 => coded1 .rxId rest
    | 17 => .ok .rxLenZero
    | 18 => coded1 .rxLenOk rest
    | 19 => coded1 .rxLenOver rest
    | 20 => coded1 .rxPayMore rest
    | 21 => coded1 .rxPayLast rest
    | 22 => coded1 .rxCsum rest
    | 23 => .ok .rxEofOk
    | 24 => coded1 .rxEofBad rest
    | 25 => .ok .dispBadCsum
    | 26 => coded16 .dispSetMotors rest
    | 27 => .ok .dispSetMotorsBadLen
    | 28 => .ok .dispGetEncoders
    | 29 => .ok .dispResetEncoders
    | 30 => .ok .dispPing
    | 31 => coded32 .dispMoveSteps rest
    | 32 => .ok .dispMoveStepsBadLen
    | 33 => .ok .dispUnknown
    | _ => .error .unknownOperation

/-- The decoder (R82, R83, R90): total on every word, rejecting by name. -/
def decode (c : Config) : OpWord → Except DecodeError Instr
  | .rxStep code b idx len =>
    match RxState.ofCode code with
    | none => .error .illegalStateCode
    | some st =>
      match decodeRx c st b idx len with
      | .ok op => .ok (op.instr b)
      | .error e => .error e
  | .frame bytes => decodeFrame c bytes
  | .dispatch f =>
    match decodeDispatch c f with
    | .ok op => .ok op.instr
    | .error e => .error e
  | .coded bytes => decodeCoded bytes

/-! The encoder. -/

/-- The word of a transition: the state's code (R81) and the byte; `idx` and `len` are values that meet the guard. -/
def rxWord (st : RxState) (b : Byte) (idx : Byte := 0) (len : Byte := 0) : OpWord :=
  .rxStep st.code b idx len

/-- A `FrameOut` with a good checksum, as the receiver emits it (R123). -/
def goodFrameOut (id : Byte) (payload : List Byte) : FrameOut :=
  { id := id, len := lengthByte payload, payload := payload
    csum := checksum id (lengthByte payload) payload, csumOk := true }

/-- An id outside the five dispatched commands: the Pong identifier (R85, R168). -/
def unknownCommandId (c : Config) : Byte := c.msgPong

/-- The word of an operation: the row's own encoding with its operands in place (R71, R77, R81, R82, R90). Where a
row's condition leaves fields free (the id of a bad frame, the length of a Ping), one that meets it is taken. -/
def encode (c : Config) : Instr → OpWord
  | .rxWaitSof => rxWord .waitForSof c.sof
  | .rxWaitSkip b => rxWord .waitForSof b
  | .rxId b => rxWord .readId b
  | .rxLenZero => rxWord .readLength 0
  | .rxLenOk b => rxWord .readLength b
  | .rxLenOver b => rxWord .readLength b
  | .rxPayMore b => rxWord .readPayload b 0 2
  | .rxPayLast b => rxWord .readPayload b 0 1
  | .rxCsum b => rxWord .readChecksum b
  | .rxEofOk => rxWord .readEof c.eof
  | .rxEofBad b => rxWord .readEof b
  | .reset => .coded [13]
  | .checksum id length payload => .coded ([12, id, length] ++ payload)
  | .encode id payload => .coded ([11, id, lengthByte payload] ++ payload)
  | .setMotors a b => .frame (frameBytes c c.cmdSetMotors (pair16Bytes c.byteOrder a b))
  | .getEncoders => .frame (frameBytes c c.cmdGetEncoders [])
  | .resetEncoders => .frame (frameBytes c c.cmdResetEncoders [])
  | .ping => .frame (frameBytes c Config.cmdPing [])
  | .moveSteps a b => .frame (frameBytes c c.cmdMoveSteps (pair32Bytes c.byteOrder a b))
  | .getMode => .frame (frameBytes c c.cmdGetMode [])
  | .encoderData a b => .frame (frameBytes c c.msgEncoderData (pair32Bytes c.byteOrder a b))
  | .modeData m => .frame (frameBytes c c.msgModeData [m])
  | .ack i => .frame (frameBytes c c.msgAck [i])
  | .error e => .frame (frameBytes c c.msgError [e])
  | .pong => .frame (frameBytes c c.msgPong [])
  | .dispBadCsum => .dispatch { id := 0, len := 0, payload := [], csum := 1, csumOk := false }
  | .dispSetMotors a b => .dispatch (goodFrameOut c.cmdSetMotors (pair16Bytes c.byteOrder a b))
  | .dispSetMotorsBadLen => .dispatch (goodFrameOut c.cmdSetMotors [])
  | .dispGetEncoders => .dispatch (goodFrameOut c.cmdGetEncoders [])
  | .dispResetEncoders => .dispatch (goodFrameOut c.cmdResetEncoders [])
  | .dispPing => .dispatch (goodFrameOut Config.cmdPing [])
  | .dispMoveSteps a b => .dispatch (goodFrameOut c.cmdMoveSteps (pair32Bytes c.byteOrder a b))
  | .dispMoveStepsBadLen => .dispatch (goodFrameOut c.cmdMoveSteps [])
  | .dispUnknown => .dispatch (goodFrameOut (unknownCommandId c) [])

/-- The longest coded word: code, id, length and 255 payload bytes. -/
def longestCodedWord : Nat := 258

/-- The bytes of a table word: `nbits` bits of `w`, first byte least significant, and zero bytes after them up to the
longest coded word. -/
def tableBytes (nbits w : Nat) : List Byte :=
  (List.range ((nbits + 7) / 8)).map (fun k => BitVec.ofNat 8 (w >>> (8 * k))) ++
    List.replicate (longestCodedWord - (nbits + 7) / 8) 0

/-- The operation the decoder reads from a table word. The table gives the rows no bits of their own, so the bits are
those of the model's operation codes (log entry 8). -/
def decodeTableWord (nbits w : Nat) : Option Instr :=
  match decodeCoded (tableBytes nbits w) with
  | .ok i => some i
  | .error _ => none

end Sys2Proof
end

