-- ==== Sys2Proof/Machine/State.lean ====
section
/-! DEFINITION. The state of the machine as plain data (10_state.md R20 to R39, 70_reset_and_hazards.md R223), why a
step can stop, and the state after reset (R221). -/

namespace Sys2Proof.Machine

/-- The payload buffer `rx.buf`: the cells that hold a value, addresses strictly rising; a cell not listed has held no
value since reset (10_state.md R24, R35; log entry 4). -/
abbrev Memory := List Host.Cell

/-- The receiver's parsing context (10_state.md R20). -/
structure RxContext where
  /-- `rx.state` (R21) -/
  state : RxState
  /-- `rx.id` (R22) -/
  id : Byte
  /-- `rx.len` (R23) -/
  len : Byte
  /-- `rx.idx` (R25) -/
  idx : Byte
  /-- `rx.csum` (R26) -/
  csum : Byte
  /-- `rx.buf` (R24) -/
  buf : Memory
deriving DecidableEq, Repr

/-- What the transport sink does with one call: report a status, or never report (R144, R145, R147). -/
inductive SinkAnswer where
  | reports (status : SinkStatus)
  | never
deriving DecidableEq, Repr

/-- The callback interface (43_dispatcher.md R173). -/
inductive Callback where
  | setMotors (speed1 speed2 : I16)
  | getEncoders
  | resetEncoders
  | moveSteps (steps1 steps2 : I32)
  /-- "exposed for completeness": no rule calls it -/
  | getMode
deriving DecidableEq, Repr

/-- What the outside observes, in the order it happens (70_reset_and_hazards.md R223, log entry 14). -/
inductive Output where
  /-- the receiver's `FrameOut` event (R123) -/
  | frameOut (f : FrameOut)
  /-- a callback invocation (R173) -/
  | call (c : Callback)
  /-- a byte list handed to the transport sink in one `SinkSend` (R144) -/
  | sinkSend (bytes : List Byte)
  /-- the value a call of `CHECKSUM` returned (R100) -/
  | checksumResult (b : Byte)
  /-- the sink's status an `Encode` returned to its caller (R147) -/
  | encodeStatus (status : SinkStatus)
deriving DecidableEq, Repr

/-- The whole machine. -/
structure State where
  /-- the parameters of the built block, changed by no step (00_scope.md R9 to R13, 10_state.md R31; log entry 1) -/
  cfg : Config
  /-- whether a `Reset` has been applied (70_reset_and_hazards.md R222; log entry 13) -/
  wasReset : Bool
  /-- the receiver's context (10_state.md R20) -/
  rx : RxContext
  /-- `tx.busy` (10_state.md R39; log entry 12) -/
  txBusy : Bool
  /-- the inputs not yet taken, oldest first (log entry 7) -/
  inbox : List Input
  /-- what the sink answers to its next calls (log entry 5) -/
  sinkAnswers : List SinkAnswer
  /-- what `get_encoders()` answers to its next calls (log entry 6) -/
  encoderAnswers : List (I32 × I32)
  /-- everything the outside has observed, oldest first (log entry 14) -/
  outputs : List Output
  /-- how many free values have been drawn (log entry 3) -/
  fresh : Nat
deriving DecidableEq, Repr

/-- Why the machine stops. -/
inductive Fault where
  /-- The transport sink never reports: `Encode` and all that contains it has no successor, the spec's stuck state
  (R145, R230, U5). Raised by `sinkSend`. Safe. -/
  | sinkNeverReports
  /-- A buffer cell that nothing has written since reset is read (R35, U13; log entry 4). Raised by `memRead`. Safe:
  no run from reset reaches it. -/
  | unwrittenCell
  /-- A buffer index outside 0 to 254 (R16, R24). Raised by `memRead` and `memWrite`. Safe: no step reaches it. -/
  | noSuchCell
deriving DecidableEq, Repr

/-- Why an operation is refused. -/
inductive Refusal where
  /-- An operation without a meaning, by its mnemonic. Raised by `exec` alone. Safe. -/
  | notModelled (mnemonic : String)
  /-- `RxByte` before any `Reset` has no meaning (R222, U14). Raised by `receive`. Safe. -/
  | neverReset
  /-- An inbound byte while `tx.busy` is set is not accepted (R39, R224). Raised by `receive`. Safe. -/
  | receiverNotReady
  /-- An `Encode` while `tx.busy` is set is refused (R39, R224, D18). Raised by `encodeSend`. Safe. -/
  | encoderBusy
  /-- `Encode` with more than 254 payload bytes is refused (R146, U12). Raised by `encodeSend`. Safe. -/
  | payloadTooLong
  /-- `CHECKSUM` with a length that is not the payload's size has no meaning (R103). Raised by `execChecksum`. Safe. -/
  | checksumLength
  /-- A transition row is invoked in a state where its condition does not hold (R110; log entry 11). Raised by
  `receive`. Safe. -/
  | notSelected
  /-- The decoder rejects the pending word. Raised by `rxByte`, `dispatch` and `step`. Safe. -/
  | undecodable (e : DecodeError)
deriving DecidableEq, Repr

/-- The receiver context right after reset: `WaitForSOF`, no buffer cell written; the registers the spec leaves
unspecified hold zero (R35, R221; log entry 2, DESIGN CHOICE). -/
def RxContext.reset : RxContext where
  state := .waitForSof
  id := 0
  len := 0
  idx := 0
  csum := 0
  buf := []

/-- The machine right after reset, built with given parameters (R221): no frame in progress, nothing in flight, no
pending output, no input given yet. -/
def State.resetWith (c : Config) : State where
  cfg := c
  wasReset := true
  rx := RxContext.reset
  txBusy := false
  inbox := []
  sinkAnswers := []
  encoderAnswers := []
  outputs := []
  fresh := 0

/-- The machine right after reset (R221), with the parameters of the built block (log entry 1). -/
def State.reset : State := State.resetWith Config.build

end Sys2Proof.Machine
end

