-- ==== Sys2Proof/Machine/Ops.lean ====
section
/-! DEFINITION. The shared operations: reads and writes of the payload buffer (20_memory.md R50 to R53), the register
updates, the environment's answers, and the conditions under which the receiver takes a byte. The block has no
exception entry and no return from one (60_exceptions.md R190, R200, R201): its error conditions are the plain state
changes of the transitions. -/

namespace Sys2Proof.Machine

/-- The outcome of a machine step. -/
abbrev Result := Host.Outcome State Fault Refusal

/-! The payload buffer. -/

/-- The value a cell holds, none where nothing has written it since reset. -/
def Memory.read : Memory → Nat → Option Byte
  | [], _ => none
  | (k, v) :: m, a => if k = a then some v else Memory.read m a

/-- Store a byte, keeping the addresses strictly rising. -/
def Memory.write : Memory → Nat → Byte → Memory
  | [], a, v => [(a, v)]
  | (k, w) :: m, a, v =>
    if a < k then (a, v) :: (k, w) :: m
    else if a = k then (a, v) :: m
    else (k, w) :: Memory.write m a v

/-- The canonical form: addresses strictly rising, each a cell of the buffer (R24). No listed cell equals what an
unlisted one reads as, since an unlisted one reads as no value. -/
def Memory.wf : Memory → Bool
  | [] => true
  | [(k, _)] => decide (k < Config.rxBufSize)
  | (k, _) :: (l, w) :: m => decide (k < l) && Memory.wf ((l, w) :: m)

/-- `MemRead(a, 1)` (R16, R52). -/
def memRead (m : Memory) (a : Nat) : Except Fault Byte :=
  if a < Config.rxBufSize then
    match m.read a with
    | some v => .ok v
    | none => .error .unwrittenCell
  else .error .noSuchCell

/-- `MemWrite(a, 1, v)` (R16, R51). -/
def memWrite (m : Memory) (a : Nat) (v : Byte) : Except Fault Memory :=
  if a < Config.rxBufSize then .ok (m.write a v) else .error .noSuchCell

/-- `[MemRead(a, 1), …, MemRead(a + n - 1, 1)]` (R52, R121). -/
def memReadList (m : Memory) (a : Nat) : Nat → Except Fault (List Byte)
  | 0 => .ok []
  | n + 1 =>
    match memRead m a with
    | .error e => .error e
    | .ok v =>
      match memReadList m (a + 1) n with
      | .error e => .error e
      | .ok vs => .ok (v :: vs)

/-! Updates of the state. -/

/-- Write the receiver's context. -/
def State.setRx (s : State) (rx : RxContext) : State := { s with rx := rx }

/-- Write `rx.state` alone. -/
def State.setRxState (s : State) (st : RxState) : State := s.setRx { s.rx with state := st }

/-- Write `tx.busy`. -/
def State.setTxBusy (s : State) (b : Bool) : State := { s with txBusy := b }

/-- Let the outside observe `o`. -/
def State.output (s : State) (o : Output) : State := { s with outputs := s.outputs ++ [o] }

/-- Write the list of pending inputs. -/
def State.setInbox (s : State) (inbox : List Input) : State := { s with inbox := inbox }

/-! The environment's answers. -/

/-- One answer of the transport sink: the next one given, a free status where none is given, none if the sink never
reports (R145, R147; log entry 5). -/
def askSink (s : State) : Option (SinkStatus × State) :=
  match s.sinkAnswers with
  | [] => some (Config.freeSinkStatus s.fresh, { s with fresh := s.fresh + 1 })
  | .reports status :: rest => some (status, { s with sinkAnswers := rest })
  | .never :: _ => none

/-- One answer of `get_encoders()`: the next one given, any pair where none is given (R174; log entry 6). -/
def askEncoders (s : State) : (I32 × I32) × State :=
  match s.encoderAnswers with
  | [] => (Config.freeEncoders s.fresh, { s with fresh := s.fresh + 1 })
  | e :: rest => (e, { s with encoderAnswers := rest })

/-- `SinkSend(bytes)`: the sink is handed the whole list at once; `tx.busy` is set until the sink reports (R39, R62,
R144, R145). -/
def sinkSend (bytes : List Byte) (s : State) : Host.Outcome (SinkStatus × State) Fault Refusal :=
  match askSink ((s.setTxBusy true).output (.sinkSend bytes)) with
  | some (status, t) => .next (status, t.setTxBusy false)
  | none => .fault .sinkNeverReports

/-- `Encode(id, payload)` up to the status it returns (R140, R146, R147). -/
def encodeSend (id : Byte) (payload : List Byte) (s : State) :
    Host.Outcome (SinkStatus × State) Fault Refusal :=
  if Config.maxPayload < payload.length then .refused .payloadTooLong
  else if s.txBusy then .refused .encoderBusy
  else sinkSend (frameBytes s.cfg id payload) s

/-- `Encode` as the dispatcher requests it: the status is ignored (R176). -/
def respond (id : Byte) (payload : List Byte) (s : State) : Result :=
  match encodeSend id payload s with
  | .next (_, t) => .next t
  | .fault e => .fault e
  | .refused e => .refused e

/-- `Encode` requested from outside a dispatch: the status is returned to the caller (R147, R151). -/
def encodeCall (id : Byte) (payload : List Byte) (s : State) : Result :=
  match encodeSend id payload s with
  | .next (status, t) => .next (t.output (.encodeStatus status))
  | .fault e => .fault e
  | .refused e => .refused e

/-! The receiver. -/

/-- Take one inbound byte if the receiver can (R39, R222, R224) and the transition's condition holds (R110). -/
def receive (condition : Bool) (s : State) (k : State → Result) : Result :=
  if s.wasReset = false then .refused .neverReset
  else if s.txBusy then .refused .receiverNotReady
  else if condition then k s
  else .refused .notSelected

/-- Store `b` at `rx.idx`, increment `rx.idx`, go to `next` (R118, R119). -/
def appendByte (b : Byte) (next : RxState) (s : State) : Result :=
  match memWrite s.rx.buf s.rx.idx.toNat b with
  | .ok buf => .next (s.setRx { s.rx with buf := buf, idx := s.rx.idx + 1, state := next })
  | .error e => .fault e

/-- The payload of the completed frame, cells `0` to `rx.len - 1` (R52, R121). -/
def readPayload (s : State) : Except Fault (List Byte) := memReadList s.rx.buf 0 s.rx.len.toNat

/-- The snapshot `FrameOut` hands out (R121, R123). -/
def frameOutOf (rx : RxContext) (payload : List Byte) : FrameOut where
  id := rx.id
  len := rx.len
  payload := payload
  csum := rx.csum
  csumOk := csumOk rx.id rx.len payload rx.csum

end Sys2Proof.Machine
end

