-- ==== Sys2Proof/Machine/Checksum.lean ====
section
/-! DEFINITION. The checksum engine as an operation (40_checksum.md). -/

namespace Sys2Proof.Machine

/-- `CHECKSUM` (R100): the value goes back to the caller, no state is written. A length that is not the payload's size
has no meaning (R103). -/
def execChecksum (id length : Byte) (payload : List Byte) (s : State) : Result :=
  if payload.length = length.toNat then .next (s.output (.checksumResult (checksum id length payload)))
  else .refused .checksumLength

end Sys2Proof.Machine
end

