-- ==== Sys2Proof/Machine/Encoder.lean ====
section
/-! DEFINITION. The frame encoder (42_encoder.md): the request `Encode`, and the message frames, device to host, each
of which is one `Encode` of its record (30_encoding.md R77, 43_dispatcher.md R172, 42_encoder.md R151; log entry 9). -/

namespace Sys2Proof.Machine

/-- `ENCODE` (R140). -/
def execEncode (id : Byte) (payload : List Byte) (s : State) : Result := encodeCall id payload s

/-- `ENCODERDATA` (R77, R172). -/
def execEncoderData (val1 val2 : I32) (s : State) : Result :=
  encodeCall s.cfg.msgEncoderData (pair32Bytes s.cfg.byteOrder val1 val2) s

/-- `MODEDATA` (R77, R79, R151). -/
def execModeData (mode : Byte) (s : State) : Result := encodeCall s.cfg.msgModeData [mode] s

/-- `ACK` (R77, R172). -/
def execAck (commandId : Byte) (s : State) : Result := encodeCall s.cfg.msgAck [commandId] s

/-- `ERROR` (R77, R170, R172). The encoder checks nothing about the code (R148). -/
def execError (code : Byte) (s : State) : Result := encodeCall s.cfg.msgError [code] s

/-- `PONG` (R77, R172). -/
def execPong (s : State) : Result := encodeCall s.cfg.msgPong [] s

end Sys2Proof.Machine
end

