-- ==== Sys2Proof/Machine/Dispatcher.lean ====
section
/-! DEFINITION. The dispatcher's branches (43_dispatcher.md R162 to R169) and `Dispatch(f)` (R160, R161). -/

namespace Sys2Proof.Machine

/-- `DISP.BADCSUM` (R162): an Error response, no callback. -/
def execDispBadCsum (s : State) : Result := respond s.cfg.msgError [s.cfg.errBadChecksum] s

/-- `DISP.SETMOTORS` (R163): the callback, then the Ack. -/
def execDispSetMotors (speed1 speed2 : I16) (s : State) : Result :=
  respond s.cfg.msgAck [s.cfg.cmdSetMotors] (s.output (.call (.setMotors speed1 speed2)))

/-- `DISP.SETMOTORS.BADLEN` (R169): the frame is silently dropped. -/
def execDispSetMotorsBadLen (s : State) : Result := .next s

/-- `DISP.GETENCODERS` (R164): the query, then EncoderData with its answer. -/
def execDispGetEncoders (s : State) : Result :=
  match askEncoders (s.output (.call .getEncoders)) with
  | ((e1, e2), t) => respond t.cfg.msgEncoderData (pair32Bytes t.cfg.byteOrder e1 e2) t

/-- `DISP.RESETENCODERS` (R165): the callback, then the Ack. -/
def execDispResetEncoders (s : State) : Result :=
  respond s.cfg.msgAck [s.cfg.cmdResetEncoders] (s.output (.call .resetEncoders))

/-- `DISP.PING` (R166): a Pong, no callback. -/
def execDispPing (s : State) : Result := respond s.cfg.msgPong [] s

/-- `DISP.MOVESTEPS` (R167): the callback, then the Ack. -/
def execDispMoveSteps (steps1 steps2 : I32) (s : State) : Result :=
  respond s.cfg.msgAck [s.cfg.cmdMoveSteps] (s.output (.call (.moveSteps steps1 steps2)))

/-- `DISP.MOVESTEPS.BADLEN` (R169): the frame is silently dropped. -/
def execDispMoveStepsBadLen (s : State) : Result := .next s

/-- `DISP.UNKNOWN` (R168): an Error response, no callback. -/
def execDispUnknown (s : State) : Result := respond s.cfg.msgError [s.cfg.errUnknownCommand] s

/-- Run one branch. -/
def runBranch (op : DispOp) (s : State) : Result :=
  match op with
  | .badCsum => execDispBadCsum s
  | .setMotors a b => execDispSetMotors a b s
  | .setMotorsBadLen => execDispSetMotorsBadLen s
  | .getEncoders => execDispGetEncoders s
  | .resetEncoders => execDispResetEncoders s
  | .ping => execDispPing s
  | .moveSteps a b => execDispMoveSteps a b s
  | .moveStepsBadLen => execDispMoveStepsBadLen s
  | .unknown => execDispUnknown s

/-- `Dispatch(f)` (R160, R161). -/
def dispatch (f : FrameOut) (s : State) : Result :=
  match decodeDispatch s.cfg f with
  | .ok op => runBranch op s
  | .error e => .refused (.undecodable e)

end Sys2Proof.Machine
end

