-- ==== Sys2Proof/Machine/Receiver.lean ====
section
/-! DEFINITION. The frame receiver (41_receiver.md): the eleven transitions of `RxByte`, `RxByte` itself (R110) and
`feed` (R111). -/

namespace Sys2Proof.Machine

/-- `RX.WAIT.SOF` (R112). -/
def execRxWaitSof (s : State) : Result :=
  receive (s.rx.state = .waitForSof) s fun s => .next (s.setRxState .readId)

/-- `RX.WAIT.SKIP` (R113): no write. -/
def execRxWaitSkip (b : Byte) (s : State) : Result :=
  receive (s.rx.state = .waitForSof && b != s.cfg.sof) s fun s => .next s

/-- `RX.ID` (R114). -/
def execRxId (b : Byte) (s : State) : Result :=
  receive (s.rx.state = .readId) s fun s => .next (s.setRx { s.rx with id := b, state := .readLength })

/-- `RX.LEN.ZERO` (R115). -/
def execRxLenZero (s : State) : Result :=
  receive (s.rx.state = .readLength) s fun s => .next (s.setRx { s.rx with len := 0, state := .readChecksum })

/-- `RX.LEN.OK` (R116). -/
def execRxLenOk (b : Byte) (s : State) : Result :=
  receive (s.rx.state = .readLength && lengthAccepted b) s fun s =>
    .next (s.setRx { s.rx with len := b, idx := 0, state := .readPayload })

/-- `RX.LEN.OVER` (R117): the length is stored, the frame abandoned without output. -/
def execRxLenOver (b : Byte) (s : State) : Result :=
  receive (s.rx.state = .readLength && lengthOver b) s fun s =>
    .next (s.setRx { s.rx with len := b, state := .waitForSof })

/-- `RX.PAY.MORE` (R118). -/
def execRxPayMore (b : Byte) (s : State) : Result :=
  receive (s.rx.state = .readPayload && payloadMore s.rx.idx s.rx.len) s (appendByte b .readPayload)

/-- `RX.PAY.LAST` (R119). -/
def execRxPayLast (b : Byte) (s : State) : Result :=
  receive (s.rx.state = .readPayload && payloadLast s.rx.idx s.rx.len) s (appendByte b .readChecksum)

/-- `RX.CSUM` (R120). -/
def execRxCsum (b : Byte) (s : State) : Result :=
  receive (s.rx.state = .readChecksum) s fun s => .next (s.setRx { s.rx with csum := b, state := .readEof })

/-- Complete the frame: emit `FrameOut`, dispatch it within the same step, then write `rx.state` (R121, R160, D31). -/
def completeFrame (s : State) : Result :=
  match readPayload s with
  | .error e => .fault e
  | .ok payload =>
    match dispatch (frameOutOf s.rx payload) (s.output (.frameOut (frameOutOf s.rx payload))) with
    | .next t => .next (t.setRxState .waitForSof)
    | .fault e => .fault e
    | .refused e => .refused e

/-- `RX.EOF.OK` (R121). -/
def execRxEofOk (s : State) : Result := receive (s.rx.state = .readEof) s completeFrame

/-- `RX.EOF.BAD` (R122): the frame is discarded without output. -/
def execRxEofBad (b : Byte) (s : State) : Result :=
  receive (s.rx.state = .readEof && b != s.cfg.eof) s fun s => .next (s.setRxState .waitForSof)

/-- The transition the table selects for byte `b` (R82). -/
def runTransition (op : RxOp) (b : Byte) (s : State) : Result :=
  match op with
  | .waitSof => execRxWaitSof s
  | .waitSkip => execRxWaitSkip b s
  | .id => execRxId b s
  | .lenZero => execRxLenZero s
  | .lenOk => execRxLenOk b s
  | .lenOver => execRxLenOver b s
  | .payMore => execRxPayMore b s
  | .payLast => execRxPayLast b s
  | .csum => execRxCsum b s
  | .eofOk => execRxEofOk s
  | .eofBad => execRxEofBad b s

/-- `RxByte(b)` (R110). -/
def rxByte (b : Byte) (s : State) : Result :=
  match decodeRx s.cfg s.rx.state b s.rx.idx s.rx.len with
  | .ok op => runTransition op b s
  | .error e => .refused (.undecodable e)

/-- `feed(bytes)`: the steps `RxByte` of the bytes in order (R111). -/
def feed : List Byte → State → Result
  | [], s => .next s
  | b :: bytes, s =>
    match rxByte b s with
    | .next t => feed bytes t
    | .fault e => .fault e
    | .refused e => .refused e

end Sys2Proof.Machine
end

