-- ==== Sys2Proof/Machine/Frames.lean ====
section
/-! DEFINITION. The command frames, host to device (30_encoding.md R77, R89): a command's frame, whole, is fed to the
receiver byte by byte (41_receiver.md R111), which in step with the sender ends in its dispatch (R160; log entry 9). -/

namespace Sys2Proof.Machine

/-- Feed `FRAME(id; payload)` (R88). -/
def feedFrame (id : Byte) (payload : List Byte) (s : State) : Result := feed (frameBytes s.cfg id payload) s

/-- `SETMOTORS` (R77, R89). -/
def execSetMotors (speed1 speed2 : I16) (s : State) : Result :=
  feedFrame s.cfg.cmdSetMotors (pair16Bytes s.cfg.byteOrder speed1 speed2) s

/-- `GETENCODERS` (R77, R89). -/
def execGetEncoders (s : State) : Result := feedFrame s.cfg.cmdGetEncoders [] s

/-- `RESETENCODERS` (R77, R89). -/
def execResetEncoders (s : State) : Result := feedFrame s.cfg.cmdResetEncoders [] s

/-- `PING` (R77, R89). -/
def execPing (s : State) : Result := feedFrame Config.cmdPing [] s

/-- `MOVESTEPS` (R77, R89). -/
def execMoveSteps (steps1 steps2 : I32) (s : State) : Result :=
  feedFrame s.cfg.cmdMoveSteps (pair32Bytes s.cfg.byteOrder steps1 steps2) s

/-- `GETMODE` (R77, R168). -/
def execGetMode (s : State) : Result := feedFrame s.cfg.cmdGetMode [] s

end Sys2Proof.Machine
end

