-- ==== Sys2Proof/Machine/Reset.lean ====
section
/-! DEFINITION. The `Reset` event (70_reset_and_hazards.md R220). -/

namespace Sys2Proof.Machine

/-- `RESET` (R220): `rx.state <- WaitForSOF`, `tx.busy <- 0`; the other registers take unspecified values, here free
ones, the index within the limit of R36(c), and no buffer cell holds a value any more (R35; log entries 3, 4). A frame
in progress is discarded without output. -/
def execReset (s : State) : Result :=
  .next { s with
    wasReset := true
    txBusy := false
    rx :=
      { state := .waitForSof
        id := Config.freeByte s.fresh
        len := Config.freeByte (s.fresh + 1)
        idx := BitVec.ofNat 8 (Config.freeIndex (s.fresh + 2)).val
        csum := Config.freeByte (s.fresh + 3)
        buf := [] }
    fresh := s.fresh + 4 }

end Sys2Proof.Machine
end

