-- ==== Sys2Proof/Machine/Dispatch.lean ====
section
/-! DEFINITION. One arm for every constructor of `Instr`: the meaning of each row of spec/opcode_table.json. -/

namespace Sys2Proof.Machine

def exec (i : Instr) (s : State) : Host.Outcome State Fault Refusal :=
  match i with
  | .rxWaitSof => Sys2Proof.Machine.execRxWaitSof s
  | .rxWaitSkip b => Sys2Proof.Machine.execRxWaitSkip b s
  | .rxId b => Sys2Proof.Machine.execRxId b s
  | .rxLenZero => Sys2Proof.Machine.execRxLenZero s
  | .rxLenOk b => Sys2Proof.Machine.execRxLenOk b s
  | .rxLenOver b => Sys2Proof.Machine.execRxLenOver b s
  | .rxPayMore b => Sys2Proof.Machine.execRxPayMore b s
  | .rxPayLast b => Sys2Proof.Machine.execRxPayLast b s
  | .rxCsum b => Sys2Proof.Machine.execRxCsum b s
  | .rxEofOk => Sys2Proof.Machine.execRxEofOk s
  | .rxEofBad b => Sys2Proof.Machine.execRxEofBad b s
  | .reset => Sys2Proof.Machine.execReset s
  | .checksum id length payload => Sys2Proof.Machine.execChecksum id length payload s
  | .encode id payload => Sys2Proof.Machine.execEncode id payload s
  | .setMotors speed1 speed2 => Sys2Proof.Machine.execSetMotors speed1 speed2 s
  | .getEncoders => Sys2Proof.Machine.execGetEncoders s
  | .resetEncoders => Sys2Proof.Machine.execResetEncoders s
  | .ping => Sys2Proof.Machine.execPing s
  | .moveSteps steps1 steps2 => Sys2Proof.Machine.execMoveSteps steps1 steps2 s
  | .getMode => Sys2Proof.Machine.execGetMode s
  | .encoderData val1 val2 => Sys2Proof.Machine.execEncoderData val1 val2 s
  | .modeData mode => Sys2Proof.Machine.execModeData mode s
  | .ack commandId => Sys2Proof.Machine.execAck commandId s
  | .error code => Sys2Proof.Machine.execError code s
  | .pong => Sys2Proof.Machine.execPong s
  | .dispBadCsum => Sys2Proof.Machine.execDispBadCsum s
  | .dispSetMotors speed1 speed2 => Sys2Proof.Machine.execDispSetMotors speed1 speed2 s
  | .dispSetMotorsBadLen => Sys2Proof.Machine.execDispSetMotorsBadLen s
  | .dispGetEncoders => Sys2Proof.Machine.execDispGetEncoders s
  | .dispResetEncoders => Sys2Proof.Machine.execDispResetEncoders s
  | .dispPing => Sys2Proof.Machine.execDispPing s
  | .dispMoveSteps steps1 steps2 => Sys2Proof.Machine.execDispMoveSteps steps1 steps2 s
  | .dispMoveStepsBadLen => Sys2Proof.Machine.execDispMoveStepsBadLen s
  | .dispUnknown => Sys2Proof.Machine.execDispUnknown s

end Sys2Proof.Machine
end

