-- ==== Sys2Proof/Machine/Fetch.lean ====
section
/-! DEFINITION. Taking the next input: the word the decoder reads, and the placing of an operation in front of the
machine (log entries 7, 8). -/

namespace Sys2Proof.Machine

/-- The word of a pending input. An inbound byte is read beside the registers that select its transition (R82, R110). -/
def State.wordOf (s : State) : Input → OpWord
  | .rxByte b => .rxStep s.rx.state.code b s.rx.idx s.rx.len
  | .word w => w

/-- What the next step does. -/
inductive Fetched where
  /-- no input is pending: the machine waits (R126, R208) -/
  | idle
  /-- run `i` in `s`, the input taken -/
  | run (i : Instr) (s : State)
  /-- the decoder rejects the pending word -/
  | rejected (e : DecodeError)

/-- Take the oldest pending input and decode it. -/
def fetch (s : State) : Fetched :=
  match s.inbox with
  | [] => .idle
  | input :: rest =>
    match decode s.cfg (s.wordOf input) with
    | .ok i => .run i (s.setInbox rest)
    | .error e => .rejected e

/-- The receiver's context in which the condition of a transition row holds, for a row that is placed by its name. Rows
of the other formats need nothing of it. -/
def RxContext.select (rx : RxContext) : Instr → RxContext
  | .rxWaitSof | .rxWaitSkip _ => { rx with state := .waitForSof }
  | .rxId _ => { rx with state := .readId }
  | .rxLenZero | .rxLenOk _ | .rxLenOver _ => { rx with state := .readLength }
  | .rxPayMore _ => { rx with state := .readPayload, idx := 0, len := 2 }
  | .rxPayLast _ => { rx with state := .readPayload, idx := 0, len := 1 }
  | .rxCsum _ => { rx with state := .readChecksum }
  | .rxEofOk | .rxEofBad _ => { rx with state := .readEof, len := 0 }
  | .reset | .checksum _ _ _ | .encode _ _
  | .setMotors _ _ | .getEncoders | .resetEncoders | .ping | .moveSteps _ _ | .getMode
  | .encoderData _ _ | .modeData _ | .ack _ | .error _ | .pong
  | .dispBadCsum | .dispSetMotors _ _ | .dispSetMotorsBadLen | .dispGetEncoders | .dispResetEncoders
  | .dispPing | .dispMoveSteps _ _ | .dispMoveStepsBadLen | .dispUnknown => rx

/-- Place a table word as the next input. -/
def placeWord (s : State) (nbits w : Nat) : State :=
  let placed := s.setInbox (.word (.coded (tableBytes nbits w)) :: s.inbox)
  match decodeTableWord nbits w with
  | some i => placed.setRx (s.rx.select i)
  | none => placed

end Sys2Proof.Machine
end

