-- ==== Sys2Proof/Machine/Step.lean ====
section
/-! DEFINITION. One step: the oldest pending input, decoded and run whole (00_scope.md R17, 20_memory.md R61). -/

namespace Sys2Proof.Machine

/-- One step. With no input pending the machine waits, unchanged (R126, R208). -/
def step (s : State) : Host.Outcome State Fault Refusal :=
  match fetch s with
  | .idle => .next s
  | .run i t => exec i t
  | .rejected e => .refused (.undecodable e)

/-- The state with a table word stored where `step` takes its next input, and the context in which that row is
selected (log entries 7, 8). -/
def State.withFetchWord (s : State) (nbits w : Nat) : State := placeWord s nbits w

end Sys2Proof.Machine
end

