-- ==== Sys2Proof/Safety.lean ====
section
/-! DEFINITION. The terms the claims are made in: when the receiver takes a byte, when the sink answers, the invariant of
10_state.md R36, the conditions of the decode table (30_encoding.md R82), and what an operation leaves alone. -/

namespace Sys2Proof.Machine

/-- The receiver takes an inbound byte: a `Reset` has been applied (R222) and the encoder is not busy (R39, R224). -/
structure State.Ready (s : State) : Prop where
  wasReset : s.wasReset = true
  notBusy : s.txBusy = false

/-- The sink reports when it is next called (R145). -/
def State.SinkReports (s : State) : Prop := s.sinkAnswers.head? ≠ some .never

/-- The first `n` cells of the buffer hold a value. -/
def Memory.Written (m : Memory) (n : Nat) : Prop := ∀ k < n, (m.read k).isSome = true

/-- The first cells of the buffer hold exactly the bytes `payload`. -/
def Memory.Holds (m : Memory) (payload : List Byte) : Prop :=
  ∀ k (h : k < payload.length), m.read k = some payload[k]

/-- The invariant of the receiver's context (R36), as far as the context alone can say it: (a) in `ReadPayload`,
`1 <= rx.len <= 254`, `rx.idx < rx.len`, and the cells below `rx.idx` are written; (c) `rx.idx` never exceeds 254; (d) in
`ReadChecksum` and `ReadEof`, `rx.len <= 254`, and of (b) that the cells below `rx.len` are written. Which bytes they hold,
and since when, is `State.Received`. The buffer has its canonical form. -/
structure RxContext.Inv (rx : RxContext) : Prop where
  bufWf : rx.buf.wf = true
  index : rx.idx.toNat ≤ 254
  payload : rx.state = .readPayload →
    1 ≤ rx.len.toNat ∧ rx.len.toNat ≤ Config.maxPayload ∧ rx.idx.toNat < rx.len.toNat ∧ rx.buf.Written rx.idx.toNat
  complete : rx.state = .readChecksum ∨ rx.state = .readEof →
    rx.len.toNat ≤ Config.maxPayload ∧ rx.buf.Written rx.len.toNat

/-- The invariant of the machine: the parameters meet the spec's constraints (R9, R12), a `Reset` has been applied,
`tx.busy` is 0 between steps (R39), and the context meets its own. -/
structure State.Inv (s : State) : Prop where
  cfgWf : s.cfg.Wf
  ready : s.Ready
  rx : s.rx.Inv

/-- The context is what the consecutive inbound bytes `inbound`, oldest first, have made it since the last `SOF`
(R36(b)): the frame so far is their end, field by field, and payload byte `k`, counted from the byte after the
`ReadLength` step, is in cell `k`. In `ReadPayload` that is said of every payload so far, which gives the order of the
writes; in `ReadChecksum` and `ReadEof` of all `rx.len` cells. -/
def State.Received (s : State) (inbound : List Byte) : Prop :=
  match s.rx.state with
  | .waitForSof => True
  | .readId => [s.cfg.sof] <:+ inbound
  | .readLength => [s.cfg.sof, s.rx.id] <:+ inbound
  | .readPayload => ∃ payload : List Byte, payload.length = s.rx.idx.toNat ∧ s.rx.buf.Holds payload ∧
      [s.cfg.sof, s.rx.id, s.rx.len] ++ payload <:+ inbound
  | .readChecksum => ∃ payload : List Byte, payload.length = s.rx.len.toNat ∧ s.rx.buf.Holds payload ∧
      [s.cfg.sof, s.rx.id, s.rx.len] ++ payload <:+ inbound
  | .readEof => ∃ payload : List Byte, payload.length = s.rx.len.toNat ∧ s.rx.buf.Holds payload ∧
      [s.cfg.sof, s.rx.id, s.rx.len] ++ payload ++ [s.rx.csum] <:+ inbound

/-- The inbound bytes an operation takes: the one byte of a transition row, the whole frame of a command row. -/
def inboundOf (c : Config) : Instr → List Byte
  | .rxWaitSof => [c.sof]
  | .rxLenZero => [0]
  | .rxEofOk => [c.eof]
  | .rxWaitSkip b | .rxId b | .rxLenOk b | .rxLenOver b | .rxPayMore b | .rxPayLast b | .rxCsum b | .rxEofBad b => [b]
  | .setMotors a b => frameBytes c c.cmdSetMotors (pair16Bytes c.byteOrder a b)
  | .moveSteps a b => frameBytes c c.cmdMoveSteps (pair32Bytes c.byteOrder a b)
  | .getEncoders => frameBytes c c.cmdGetEncoders []
  | .resetEncoders => frameBytes c c.cmdResetEncoders []
  | .ping => frameBytes c Config.cmdPing []
  | .getMode => frameBytes c c.cmdGetMode []
  | .reset | .checksum _ _ _ | .encode _ _
  | .encoderData _ _ | .modeData _ | .ack _ | .error _ | .pong
  | .dispBadCsum | .dispSetMotors _ _ | .dispSetMotorsBadLen | .dispGetEncoders | .dispResetEncoders
  | .dispPing | .dispMoveSteps _ _ | .dispMoveStepsBadLen | .dispUnknown => []

/-- The inbound bytes the next step takes. -/
def State.takes (s : State) : List Byte :=
  match fetch s with
  | .run i _ => inboundOf s.cfg i
  | .idle | .rejected _ => []

/-- The dispatch of a `FrameOut` requests no `Encode`: the two drops of the length gate (R169, R171). -/
def silentlyDropped (c : Config) (f : FrameOut) : Prop :=
  f.csumOk = true ∧ ((f.id = c.cmdSetMotors ∧ f.len ≠ 4) ∨ (f.id = c.cmdMoveSteps ∧ f.len ≠ 8))

/-- The column "selected when" of the decode table of `RxByte` (R82). -/
def rxCondition (c : Config) (st : RxState) (b idx len : Byte) : RxOp → Prop
  | .waitSof => st = .waitForSof ∧ b = c.sof
  | .waitSkip => st = .waitForSof ∧ b ≠ c.sof
  | .id => st = .readId
  | .lenZero => st = .readLength ∧ b.toNat = 0
  | .lenOk => st = .readLength ∧ 0 < b.toNat ∧ b.toNat < 255
  | .lenOver => st = .readLength ∧ 255 ≤ b.toNat
  | .payMore => st = .readPayload ∧ idx.toNat + 1 < len.toNat
  | .payLast => st = .readPayload ∧ idx.toNat + 1 = len.toNat
  | .csum => st = .readChecksum
  | .eofOk => st = .readEof ∧ b = c.eof
  | .eofBad => st = .readEof ∧ b ≠ c.eof

/-- Everything of the block itself is the same in both states: parameters, receiver context with every buffer cell,
`tx.busy`; and so are the inputs still pending. -/
structure State.SameBlock (s t : State) : Prop where
  cfg : t.cfg = s.cfg
  wasReset : t.wasReset = s.wasReset
  rx : t.rx = s.rx
  cells : ∀ a, t.rx.buf.read a = s.rx.buf.read a
  txBusy : t.txBusy = s.txBusy
  inbox : t.inbox = s.inbox

/-- Everything but the receiver's context is the same of the block, and so are the inputs still pending. -/
structure State.SameButContext (s t : State) : Prop where
  cfg : t.cfg = s.cfg
  wasReset : t.wasReset = s.wasReset
  txBusy : t.txBusy = s.txBusy
  inbox : t.inbox = s.inbox

/-- The output is a `FrameOut` event. -/
def Output.isFrameOut : Output → Bool
  | .frameOut _ => true
  | .call _ | .sinkSend _ | .checksumResult _ | .encodeStatus _ => false

/-- The output is a byte list handed to the sink. -/
def Output.isSinkSend : Output → Bool
  | .sinkSend _ => true
  | .frameOut _ | .call _ | .checksumResult _ | .encodeStatus _ => false

/-- The output is a callback invocation. -/
def Output.isCall : Output → Bool
  | .call _ => true
  | .frameOut _ | .sinkSend _ | .checksumResult _ | .encodeStatus _ => false

/-- The output is a query of the encoders. -/
def Output.isQuery : Output → Bool
  | .call c => c == .getEncoders
  | .frameOut _ | .sinkSend _ | .checksumResult _ | .encodeStatus _ => false

/-- The operation answers a next state in which one frame has been handed to the sink, whole, and its status returned
to the caller; the block is unchanged, one answer of the sink is used and none of `get_encoders()`. -/
def Sends (i : Instr) (frame : List Byte) (s : State) : Prop :=
  ∃ status t, exec i s = .next t ∧
    t.outputs = s.outputs ++ [.sinkSend frame, .encodeStatus status] ∧
    (∀ given, s.sinkAnswers.head? = some (.reports given) → status = given) ∧
    s.SameBlock t ∧ t.sinkAnswers = s.sinkAnswers.tail ∧ t.encoderAnswers = s.encoderAnswers

/-- The dispatcher on `f`, and its branch `i` alone, answer the same next state, in which the outputs `new` have
happened; the block is unchanged, the sink has been asked once for every frame in `new` and `get_encoders()` once for
every query. -/
def Branches (f : FrameOut) (i : Instr) (new : List Output) (s : State) : Prop :=
  ∃ t, dispatch f s = .next t ∧ exec i s = .next t ∧ t.outputs = s.outputs ++ new ∧ s.SameBlock t ∧
    t.sinkAnswers = s.sinkAnswers.drop (new.countP Output.isSinkSend) ∧
    t.encoderAnswers = s.encoderAnswers.drop (new.countP Output.isQuery)

end Sys2Proof.Machine
end

