-- ==== Sys2Proof/Certificates/Slice0/Obligations.lean ====
section
/-! DEFINITION. The statements for the provers, in the order of the spec's files. A docstring that begins with a rule's
number formalises that rule; one that begins with "Derived" says what the statement rests on: rules the spec itself
marks as its own decision or inference, or the model's own choices by their log entry. -/

open Sys2Proof Sys2Proof.Machine

/-! State and encodings (10_state.md, 30_encoding.md). -/

/-- Derived from 30_encoding.md, the state register's codes (R81, the spec's own decision D11): the six states have the codes 0 to 5 in the source's order, and codes 6 and 7 are no state. -/
def Obligations.StateCodesAreZeroToFive : Prop :=
  (RxState.waitForSof.code = 0 ∧ RxState.readId.code = 1 ∧ RxState.readLength.code = 2 ∧
    RxState.readPayload.code = 3 ∧ RxState.readChecksum.code = 4 ∧ RxState.readEof.code = 5) ∧
  (∀ st : RxState, RxState.ofCode st.code = some st) ∧
  RxState.ofCode 6 = none ∧ RxState.ofCode 7 = none

/-- Derived from 30_encoding.md (R72, which the spec derives from the field table): a frame is `L + 5` bytes long, 5 bytes when `L = 0` and 259 bytes when `L = 254`. -/
def Obligations.FrameHasFiveBytesBesidePayload : Prop :=
  ∀ (c : Config) (id : Byte) (payload : List Byte),
    (frameBytes c id payload).length = payload.length + 5 ∧
    (payload.length = 0 → (frameBytes c id payload).length = 5) ∧
    (payload.length = 254 → (frameBytes c id payload).length = 259)

/-- Derived from R175 and R78 (the spec's own decisions D9, D10; log entry 19): decoding the bytes of a field gives the field back, in both byte orders, and the bytes of a decoded
field are the bytes it was decoded from, so that every byte pattern is a legal value. -/
def Obligations.FieldCodecsInvertEachOther : Prop :=
  (∀ (o : ByteOrder) (v : I16), ∃ b0 b1, i16Bytes o v = [b0, b1] ∧ decI16 o b0 b1 = v) ∧
  (∀ (o : ByteOrder) (b0 b1 : Byte), i16Bytes o (decI16 o b0 b1) = [b0, b1]) ∧
  (∀ b0 b1 : Byte, (decI16 .little b0 b1).toNat = b1.toNat * 256 + b0.toNat ∧
    decI16 .big b0 b1 = decI16 .little b1 b0) ∧
  (∀ (o : ByteOrder) (v : I32), ∃ b0 b1 b2 b3, i32Bytes o v = [b0, b1, b2, b3] ∧ decI32 o b0 b1 b2 b3 = v) ∧
  (∀ (o : ByteOrder) (b0 b1 b2 b3 : Byte), i32Bytes o (decI32 o b0 b1 b2 b3) = [b0, b1, b2, b3]) ∧
  (∀ b0 b1 b2 b3 : Byte, (decI32 .little b0 b1 b2 b3).toNat =
      b3.toNat * 16777216 + b2.toNat * 65536 + b1.toNat * 256 + b0.toNat ∧
    decI32 .big b0 b1 b2 b3 = decI32 .little b3 b2 b1 b0)

/-- Derived from R82, R124 and R36(a), which the spec derives from the transitions: wherever
`ReadPayload` has room, the decoder selects exactly one transition for every state and byte, the one whose "selected when" column holds. -/
def Obligations.DecodeSelectsExactlyOneTransition : Prop :=
  ∀ (c : Config) (st : RxState) (b idx len : Byte), (st = .readPayload → idx.toNat < len.toNat) →
    (∃! op, rxCondition c st b idx len op) ∧
    ∀ op, decode c (.rxStep st.code b idx len) = .ok (op.instr b) ↔ rxCondition c st b idx len op

/-- R125: `SOF` is tested only in `WaitForSOF` and `EOF` only in `ReadEof`: in a state that does not test a delimiter,
the transition selected does not depend on that delimiter's value; between the two, a byte has the effect it would have
in a block built with any other delimiters; and no byte in the middle of a frame starts another. -/
def Obligations.DelimitersTestedInOneStateEach : Prop :=
  (∀ (c c' : Config) (st : RxState) (b idx len : Byte),
    (st = .waitForSof → c.sof = c'.sof) → (st = .readEof → c.eof = c'.eof) →
    decodeRx c st b idx len = decodeRx c' st b idx len) ∧
  (∀ (s t : State) (b sof eof : Byte), s.rx.state ≠ .waitForSof → s.rx.state ≠ .readEof → rxByte b s = .next t →
    rxByte b { s with cfg := { s.cfg with sof := sof, eof := eof } } =
      .next { t with cfg := { t.cfg with sof := sof, eof := eof } }) ∧
  (∀ (s t : State) (b : Byte), s.rx.state ≠ .waitForSof → rxByte b s = .next t → t.rx.state ≠ .readId)

/-- Derived from R71, R82, R168 and the vectors S2, E1, E3 and D6 of 95_test_vectors.md: words written out from the spec's
encodings decode to the rows they stand for, with the parameters of T0. The codes of the receiver's states, and that 6 is
none, are the spec's own decision D11 (R81, R87); that the mode query (vector D6) is dispatched as an unknown id is its
decision D21 (R168). -/
def Obligations.WrittenWordsDecodeToTheirRows : Prop :=
  decode Config.t0 (.rxStep 0 0xAA 0 0) = .ok .rxWaitSof ∧
  decode Config.t0 (.rxStep 2 0xFE 0 0) = .ok (.rxLenOk 0xFE) ∧
  decode Config.t0 (.rxStep 5 0x55 0 0) = .ok .rxEofOk ∧
  decode Config.t0 (.rxStep 6 0x00 0 0) = .error .illegalStateCode ∧
  decode Config.t0 (.frame [0xAA, 0x01, 0x04, 0x64, 0x00, 0xCE, 0xFF, 0x50, 0x55]) =
    .ok (.setMotors (BitVec.ofInt 16 100) (BitVec.ofInt 16 (-50))) ∧
  decode Config.t0 (.frame [0xAA, 0x04, 0x00, 0x04, 0x55]) = .ok .ping ∧
  decode Config.t0 (.frame [0xAA, 0x83, 0x01, 0x01, 0x83, 0x55]) = .ok (.ack 0x01) ∧
  decode Config.t0 (.dispatch { id := 0x06, len := 0, payload := [], csum := 0x06, csumOk := true }) =
    .ok .dispUnknown

/-- Derived from R71, R77, R81 (the spec's own decision D11), R82, R90, R161 (OP rows: the model's own codes, log entry 8):
for every well-formed operation and every value of its operands, decoding its encoding gives it back. That GETMODE has no
payload is the spec's own decision D21 (R77); that a well-formed ERROR has one of the two codes of R170 is log entry 24. -/
def Obligations.DecodeOfEncodeIsTheOperation : Prop :=
  ∀ (c : Config) (i : Instr), c.Wf → i.wf c = true → decode c (encode c i) = .ok i

/-! The checksum engine (40_checksum.md). -/

/-- Derived from R100: `CHECKSUM` returns `id ^ length` exclusive-or every payload byte, and writes no state. That what it
returns is shown in `outputs` is the model's choice (log entry 14). -/
def Obligations.ChecksumReturnsTheFold : Prop :=
  ∀ (s : State) (id length : Byte) (payload : List Byte), payload.length = length.toNat →
    exec (.checksum id length payload) s = .next { s with
      outputs := s.outputs ++ [.checksumResult (payload.foldl (· ^^^ ·) (id ^^^ length))] }

/-- Derived from R103: a length that is not the payload's size has no meaning, and is refused (log entry 22). -/
def Obligations.ChecksumRefusesMismatchedLength : Prop :=
  ∀ (s : State) (id length : Byte) (payload : List Byte), payload.length ≠ length.toNat →
    exec (.checksum id length payload) s = .refused .checksumLength

/-- Derived from R101, which the spec derives from R100: bit `i` of the result is the exclusive-or of bits `i` of `id`, of `length` and of every payload byte, and the
order of the payload bytes does not change the value. -/
def Obligations.ChecksumIsBitwiseAndOrderFree : Prop :=
  (∀ (id length : Byte) (payload : List Byte) (i : Nat), (checksum id length payload).getLsbD i =
    (payload.map fun b => b.getLsbD i).foldl Bool.xor (Bool.xor (id.getLsbD i) (length.getLsbD i))) ∧
  (∀ (id length : Byte) (p q : List Byte), p.Perm q → checksum id length p = checksum id length q)

/-- Derived from R105: a frame passes the check if and only if the exclusive-or of id, length, every payload byte and
the checksum byte is zero; changing the id alone, or one payload byte alone, always makes it fail. -/
def Obligations.ChecksumDetectsOneChangedByte : Prop :=
  (∀ (id len csum : Byte) (payload : List Byte),
    csumOk id len payload csum = true ↔ (id :: len :: payload ++ [csum]).foldl (· ^^^ ·) 0 = (0 : Byte)) ∧
  (∀ (id id' len csum : Byte) (payload : List Byte), id ≠ id' →
    csumOk id len payload csum = true → csumOk id' len payload csum = false) ∧
  (∀ (id len csum b b' : Byte) (before after : List Byte), b ≠ b' →
    csumOk id len (before ++ b :: after) csum = true → csumOk id len (before ++ b' :: after) csum = false) ∧
  (∀ (id len csum csum' : Byte) (payload : List Byte), csum ≠ csum' →
    csumOk id len payload csum = true → csumOk id len payload csum' = false)

/-! The frame receiver (41_receiver.md). In each result statement both `RxByte` on the byte of the rule's condition and
the row alone answer the next state, and all of the state the rule does not name is as before. -/

/-- R112. -/
def Obligations.RxWaitSofMovesToReadId : Prop :=
  ∀ s : State, s.Ready → s.rx.state = .waitForSof →
    rxByte s.cfg.sof s = .next { s with rx := { s.rx with state := .readId } } ∧
    exec .rxWaitSof s = .next { s with rx := { s.rx with state := .readId } }

/-- R113. -/
def Obligations.RxWaitSkipLeavesTheContext : Prop :=
  ∀ (s : State) (b : Byte), s.Ready → s.rx.state = .waitForSof → b ≠ s.cfg.sof →
    rxByte b s = .next s ∧ exec (.rxWaitSkip b) s = .next s

/-- R114. -/
def Obligations.RxIdStoresTheId : Prop :=
  ∀ (s : State) (b : Byte), s.Ready → s.rx.state = .readId →
    rxByte b s = .next { s with rx := { s.rx with id := b, state := .readLength } } ∧
    exec (.rxId b) s = .next { s with rx := { s.rx with id := b, state := .readLength } }

/-- Derived from R115; that the index and the buffer are not written is the spec's own decision D13. -/
def Obligations.RxLenZeroSkipsThePayload : Prop :=
  ∀ s : State, s.Ready → s.rx.state = .readLength →
    rxByte 0 s = .next { s with rx := { s.rx with len := 0, state := .readChecksum } } ∧
    exec .rxLenZero s = .next { s with rx := { s.rx with len := 0, state := .readChecksum } }

/-- Derived from R116; that 254 is among the accepted lengths is the spec's own decision D5 (R10). -/
def Obligations.RxLenOkStartsThePayload : Prop :=
  ∀ (s : State) (b : Byte), s.Ready → s.rx.state = .readLength → 1 ≤ b.toNat → b.toNat ≤ 254 →
    rxByte b s = .next { s with rx := { s.rx with len := b, idx := 0, state := .readPayload } } ∧
    exec (.rxLenOk b) s = .next { s with rx := { s.rx with len := b, idx := 0, state := .readPayload } }

/-- Derived from R117; that 255 alone is abandoned is the spec's own decision D5 (R10), that the index is not written D13
(R25). -/
def Obligations.RxLenOverAbandonsTheFrame : Prop :=
  ∀ s : State, s.Ready → s.rx.state = .readLength →
    rxByte 0xFF s = .next { s with rx := { s.rx with len := 0xFF, state := .waitForSof } } ∧
    exec (.rxLenOver 0xFF) s = .next { s with rx := { s.rx with len := 0xFF, state := .waitForSof } }

/-- R118: the byte lands in the cell at `rx.idx`, every other cell and every other register is as before, and
`rx.idx` goes up by one without wrap. -/
def Obligations.RxPayMoreAppendsTheByte : Prop :=
  ∀ (s : State) (b : Byte), s.Ready → s.rx.state = .readPayload → s.rx.idx.toNat + 1 < s.rx.len.toNat →
    ∃ t, rxByte b s = .next t ∧ exec (.rxPayMore b) s = .next t ∧
      t = { s with rx := { s.rx with buf := t.rx.buf, idx := s.rx.idx + 1 } } ∧
      t.rx.idx.toNat = s.rx.idx.toNat + 1 ∧
      t.rx.buf.read s.rx.idx.toNat = some b ∧
      ∀ a, a ≠ s.rx.idx.toNat → t.rx.buf.read a = s.rx.buf.read a

/-- R119: the same, and the payload is complete. -/
def Obligations.RxPayLastEndsThePayload : Prop :=
  ∀ (s : State) (b : Byte), s.Ready → s.rx.state = .readPayload → s.rx.idx.toNat + 1 = s.rx.len.toNat →
    ∃ t, rxByte b s = .next t ∧ exec (.rxPayLast b) s = .next t ∧
      t = { s with rx := { s.rx with buf := t.rx.buf, idx := s.rx.idx + 1, state := .readChecksum } } ∧
      t.rx.idx = s.rx.len ∧
      t.rx.buf.read s.rx.idx.toNat = some b ∧
      ∀ a, a ≠ s.rx.idx.toNat → t.rx.buf.read a = s.rx.buf.read a

/-- R120. -/
def Obligations.RxCsumStoresTheChecksum : Prop :=
  ∀ (s : State) (b : Byte), s.Ready → s.rx.state = .readChecksum →
    rxByte b s = .next { s with rx := { s.rx with csum := b, state := .readEof } } ∧
    exec (.rxCsum b) s = .next { s with rx := { s.rx with csum := b, state := .readEof } }

/-- Derived from R121 and R160: the frame is handed out with exactly its `rx.len` payload bytes, and dispatched within the
same step: `dispatch` runs on that `FrameOut`, after it is emitted, and the step answers what it answers, with `rx.state`
written to `WaitForSOF`. It is the one `FrameOut` of the step and comes first; no register but `rx.state` is written. The
sink is asked to report only where the dispatch sends. That the verdict is handed out with good and bad frames alike is
the spec's own decision D15, that `rx.state` is written after the dispatch D31. -/
def Obligations.RxEofOkHandsOutTheFrame : Prop :=
  ∀ (s : State) (payload : List Byte) (f : FrameOut), s.Ready → s.rx.state = .readEof →
    payload.length = s.rx.len.toNat → s.rx.buf.Holds payload →
    f = { id := s.rx.id, len := s.rx.len, payload := payload, csum := s.rx.csum
          csumOk := checksum s.rx.id s.rx.len payload == s.rx.csum } →
    s.SinkReports ∨ (s.cfg.Wf ∧ silentlyDropped s.cfg f) →
    ∃ u rest, dispatch f (s.output (.frameOut f)) = .next u ∧
      rxByte s.cfg.eof s = .next { u with rx := { s.rx with state := .waitForSof } } ∧
      exec .rxEofOk s = .next { u with rx := { s.rx with state := .waitForSof } } ∧
      u.rx = s.rx ∧ s.SameButContext u ∧
      u.outputs = s.outputs ++ .frameOut f :: rest ∧
      ∀ o ∈ rest, o.isFrameOut = false

/-- R122. -/
def Obligations.RxEofBadDiscardsTheFrame : Prop :=
  ∀ (s : State) (b : Byte), s.Ready → s.rx.state = .readEof → b ≠ s.cfg.eof →
    rxByte b s = .next { s with rx := { s.rx with state := .waitForSof } } ∧
    exec (.rxEofBad b) s = .next { s with rx := { s.rx with state := .waitForSof } }

/-- Derived from R111, and R127 which the spec derives from it: an empty chunk does nothing, a chunk of one byte is
`RxByte`, and feeding two chunks one after the other is feeding them as one. -/
def Obligations.ChunkBoundariesDoNotMatter : Prop :=
  (∀ s : State, feed [] s = .next s) ∧ (∀ (s : State) (b : Byte), feed [b] s = rxByte b s) ∧
  ∀ (s : State) (xs ys : List Byte), feed (xs ++ ys) s =
    match feed xs s with
    | .next t => feed ys t
    | .fault e => .fault e
    | .refused e => .refused e

/-- R86: in `WaitForSOF`, bytes other than `SOF` are ignored, however many, and a `SOF` after them starts a frame. -/
def Obligations.BytesBeforeSofAreIgnored : Prop :=
  ∀ (s : State) (bytes : List Byte), s.Ready → s.rx.state = .waitForSof → (∀ b ∈ bytes, b ≠ s.cfg.sof) →
    feed bytes s = .next s ∧
    feed (bytes ++ [s.cfg.sof]) s = .next { s with rx := { s.rx with state := .readId } }

/-- Derived from R129, R35 and R231: what a failed or finished frame, or a reset, left in the registers and the buffer
is never read. From `WaitForSOF`, whatever stands in the rest of the context, every stream of bytes gives the same
outputs, uses the same answers and ends in the same receiver state. -/
def Obligations.StaleRegistersAreNeverRead : Prop :=
  ∀ (s t : State) (stale : RxContext) (bytes : List Byte), s.rx.state = .waitForSof → stale.state = .waitForSof →
    feed bytes s = .next t →
    ∃ rx, feed bytes { s with rx := stale } = .next { t with rx := rx } ∧ rx.state = t.rx.state

/-- Derived from R110, with the invariant of R36 and a sink that reports: `RxByte` of every byte answers a next state. -/
def Obligations.RxByteNeverRefusesAByte : Prop :=
  ∀ (s : State) (b : Byte), s.Inv → s.SinkReports → ∃ t, rxByte b s = .next t

/-- Derived from R190, with the invariant of R36: from a state that meets the invariant, `feed` always returns normally
unless a sink never reports. -/
def Obligations.FeedReturnsUnlessASinkHangs : Prop :=
  ∀ (s : State) (bytes : List Byte), s.Inv → .never ∉ s.sinkAnswers → ∃ t, feed bytes s = .next t ∧ t.Inv

/-- Derived from R171 and R123 (the spec's own decision D15): a byte that completes no frame has no output; one that does has
exactly one `FrameOut`, first, at most one frame handed to the sink and at most one callback. -/
def Obligations.OneFrameInAtMostOneFrameOut : Prop :=
  ∀ (s t : State) (b : Byte), rxByte b s = .next t →
    t.outputs = s.outputs ∨
    (s.rx.state = .readEof ∧ b = s.cfg.eof ∧
      ∃ f rest, t.outputs = s.outputs ++ .frameOut f :: rest ∧ f.payload.length = f.len.toNat ∧
        rest.countP Output.isFrameOut = 0 ∧ rest.countP Output.isSinkSend ≤ 1 ∧ rest.countP Output.isCall ≤ 1)

/-- Derived from R130 and R152, which the spec derives from the transitions and the encoder, and from R160: the bytes of
the frame of `(id, payload)`, fed from `WaitForSOF`, for every id and every payload of 0 to 254 bytes, hand out exactly
`(id, |payload|, payload, CHECKSUM, true)`, on the last byte; that `FrameOut` is dispatched in the same step, whatever its
id and payload; and the receiver ends in `WaitForSOF`. That the block hands out the verdict is the spec's own decision
D15, that `rx.state` is written after the dispatch D31. -/
def Obligations.DecodeOfEncodedFrameIsExact : Prop :=
  ∀ (s : State) (id : Byte) (payload : List Byte) (f : FrameOut), s.Ready → s.SinkReports →
    s.rx.state = .waitForSof → payload.length ≤ 254 →
    f = { id := id, len := BitVec.ofNat 8 payload.length, payload := payload
          csum := checksum id (BitVec.ofNat 8 payload.length) payload, csumOk := true } →
    ∃ before u t rest, feed (frameBytes s.cfg id payload).dropLast s = .next before ∧
      before.outputs = s.outputs ∧ dispatch f (before.output (.frameOut f)) = .next u ∧
      rxByte s.cfg.eof before = .next t ∧ feed (frameBytes s.cfg id payload) s = .next t ∧
      t = { u with rx := { before.rx with state := .waitForSof } } ∧
      t.outputs = s.outputs ++ .frameOut f :: rest ∧
      ∀ o ∈ rest, o.isFrameOut = false

/-! The frame encoder (42_encoder.md). -/

/-- Derived from R140 and R141: `Encode` of 0 to 254 bytes hands the sink exactly
`[SOF, id, L, payload, CHECKSUM, EOF]`, and nothing of the block changes. That it returns the sink's status to its caller
is the spec's own decision D17 (R147), and that the status is shown in `outputs` is the model's choice (log entry 14). -/
def Obligations.EncodeSendsTheFrame : Prop :=
  ∀ (s : State) (id : Byte) (payload : List Byte), payload.length ≤ 254 → s.txBusy = false → s.SinkReports →
    Sends (.encode id payload)
      ([s.cfg.sof, id, BitVec.ofNat 8 payload.length] ++ payload ++
        [checksum id (BitVec.ofNat 8 payload.length) payload, s.cfg.eof]) s

/-- Derived from R146 (the spec's own decision D16): `Encode` of 255 bytes or more is refused. -/
def Obligations.EncodeRefusesLongPayloads : Prop :=
  ∀ (s : State) (id : Byte) (payload : List Byte), 255 ≤ payload.length →
    exec (.encode id payload) s = .refused .payloadTooLong

/-- Derived from R145, R209 and R230: a sink that never reports leaves the `Encode` without a successor, and with it the
`RxByte` that contains one and the `feed` that contains that: on `EOF` in `ReadEof`, every frame but the two drops of
the length gate is answered by an `Encode` (R162 to R169). That the stuck state is a named fault is log entry 5. -/
def Obligations.SinkThatNeverReportsStalls : Prop :=
  (∀ (s : State) (id : Byte) (payload : List Byte), payload.length ≤ 254 → s.txBusy = false → ¬ s.SinkReports →
    exec (.encode id payload) s = .fault .sinkNeverReports) ∧
  (∀ (s : State) (payload : List Byte), s.Ready → ¬ s.SinkReports → s.rx.state = .readEof →
    payload.length = s.rx.len.toNat → s.rx.buf.Holds payload →
    ¬ silentlyDropped s.cfg (frameOutOf s.rx payload) →
    rxByte s.cfg.eof s = .fault .sinkNeverReports ∧
    ∀ rest, feed (s.cfg.eof :: rest) s = .fault .sinkNeverReports)

/-- Derived from R39, R224 (log entry 12): while `tx.busy` is set a second `Encode` is refused and no inbound byte is
taken. -/
def Obligations.BusyEncoderRefuses : Prop :=
  ∀ s : State, s.txBusy = true →
    (∀ (id : Byte) (payload : List Byte), payload.length ≤ 254 →
      exec (.encode id payload) s = .refused .encoderBusy) ∧
    (∀ b t, rxByte b s ≠ .next t)

/-- Derived from R77, R172 and R140: each message frame is handed to the sink with its own id and record. That the row of a
message is its sending is log entry 9; that ERROR sends any code byte, though R170 admits two, is log entry 24; that the
sink's status is returned is the spec's own decision D17 (R147), and that it is shown in `outputs` log entry 14. -/
def Obligations.MessageFramesAreSent : Prop :=
  ∀ s : State, s.txBusy = false → s.SinkReports →
    Sends .pong (frameBytes s.cfg s.cfg.msgPong []) s ∧
    (∀ i, Sends (.ack i) (frameBytes s.cfg s.cfg.msgAck [i]) s) ∧
    (∀ e, Sends (.error e) (frameBytes s.cfg s.cfg.msgError [e]) s) ∧
    (∀ m, Sends (.modeData m) (frameBytes s.cfg s.cfg.msgModeData [m]) s) ∧
    (∀ v1 v2, Sends (.encoderData v1 v2)
      (frameBytes s.cfg s.cfg.msgEncoderData (i32Bytes s.cfg.byteOrder v1 ++ i32Bytes s.cfg.byteOrder v2)) s)

/-! The dispatcher (43_dispatcher.md). That a branch can also be run alone is log entry 10; that a failed send changes
nothing of what follows is the spec's own decision D17 (R176). -/

/-- R162. -/
def Obligations.BadChecksumIsAnsweredWithError : Prop :=
  ∀ (f : FrameOut) (s : State), s.txBusy = false → s.SinkReports → f.csumOk = false →
    Branches f .dispBadCsum [.sinkSend (frameBytes s.cfg s.cfg.msgError [s.cfg.errBadChecksum])] s

/-- R163: with length 4 both fields are decoded in the built byte order, the callback runs, then the Ack naming this id
is sent; with any other length nothing happens. -/
def Obligations.SetMotorsCallsThenAcks : Prop :=
  ∀ (f : FrameOut) (s : State), f.csumOk = true → f.id = s.cfg.cmdSetMotors →
    (∀ b0 b1 b2 b3 : Byte, s.txBusy = false → s.SinkReports → f.len = 4 → f.payload = [b0, b1, b2, b3] →
      Branches f (.dispSetMotors (decI16 s.cfg.byteOrder b0 b1) (decI16 s.cfg.byteOrder b2 b3))
        [.call (.setMotors (decI16 s.cfg.byteOrder b0 b1) (decI16 s.cfg.byteOrder b2 b3)),
         .sinkSend (frameBytes s.cfg s.cfg.msgAck [s.cfg.cmdSetMotors])] s) ∧
    (f.len ≠ 4 → dispatch f s = .next s ∧ exec .dispSetMotorsBadLen s = .next s)

/-- Derived from R164: the query, then EncoderData with its answer, 13 bytes; the callback is asked once. That the length is
not checked is the spec's own decision D20 (R169, conflict C7); that the answer is the next one given, any pair where none
is, is log entry 6. -/
def Obligations.GetEncodersQueriesThenReports : Prop :=
  ∀ (f : FrameOut) (s : State), s.cfg.Wf → s.txBusy = false → s.SinkReports →
    f.csumOk = true → f.id = s.cfg.cmdGetEncoders →
    ∃ e1 e2, (∀ given, s.encoderAnswers.head? = some given → (e1, e2) = given) ∧
      (frameBytes s.cfg s.cfg.msgEncoderData
        (i32Bytes s.cfg.byteOrder e1 ++ i32Bytes s.cfg.byteOrder e2)).length = 13 ∧
      Branches f .dispGetEncoders
        [.call .getEncoders, .sinkSend (frameBytes s.cfg s.cfg.msgEncoderData
          (i32Bytes s.cfg.byteOrder e1 ++ i32Bytes s.cfg.byteOrder e2))] s

/-- Derived from R165: the reset callback, then the Ack naming this id. That the length is not checked is the spec's own
decision D20 (R169, conflict C7). -/
def Obligations.ResetEncodersCallsThenAcks : Prop :=
  ∀ (f : FrameOut) (s : State), s.cfg.Wf → s.txBusy = false → s.SinkReports →
    f.csumOk = true → f.id = s.cfg.cmdResetEncoders →
    Branches f .dispResetEncoders
      [.call .resetEncoders, .sinkSend (frameBytes s.cfg s.cfg.msgAck [s.cfg.cmdResetEncoders])] s

/-- Derived from R166: a Pong without payload, and no callback. That the length is not checked is the spec's own decision
D20 (R169, conflict C7). -/
def Obligations.PingIsAnsweredWithPong : Prop :=
  ∀ (f : FrameOut) (s : State), s.cfg.Wf → s.txBusy = false → s.SinkReports →
    f.csumOk = true → f.id = 0x04 →
    Branches f .dispPing [.sinkSend (frameBytes s.cfg s.cfg.msgPong [])] s

/-- R167: with length 8 both fields are decoded in the built byte order, the callback runs, then the Ack naming this id
is sent; with any other length nothing happens. -/
def Obligations.MoveStepsCallsThenAcks : Prop :=
  ∀ (f : FrameOut) (s : State), s.cfg.Wf → f.csumOk = true → f.id = s.cfg.cmdMoveSteps →
    (∀ b0 b1 b2 b3 b4 b5 b6 b7 : Byte, s.txBusy = false → s.SinkReports → f.len = 8 →
      f.payload = [b0, b1, b2, b3, b4, b5, b6, b7] →
      Branches f
        (.dispMoveSteps (decI32 s.cfg.byteOrder b0 b1 b2 b3) (decI32 s.cfg.byteOrder b4 b5 b6 b7))
        [.call (.moveSteps (decI32 s.cfg.byteOrder b0 b1 b2 b3) (decI32 s.cfg.byteOrder b4 b5 b6 b7)),
         .sinkSend (frameBytes s.cfg s.cfg.msgAck [s.cfg.cmdMoveSteps])] s) ∧
    (f.len ≠ 8 → dispatch f s = .next s ∧ exec .dispMoveStepsBadLen s = .next s)

/-- Derived from R168 (the mode query's part of it is the spec's own decision D21): every other id is answered with the
unknown-command Error, and no callback runs. -/
def Obligations.AnyOtherIdIsAnsweredWithError : Prop :=
  ∀ (f : FrameOut) (s : State), s.txBusy = false → s.SinkReports → f.csumOk = true →
    f.id ∉ [s.cfg.cmdSetMotors, s.cfg.cmdGetEncoders, s.cfg.cmdResetEncoders, 0x04, s.cfg.cmdMoveSteps] →
    Branches f .dispUnknown [.sinkSend (frameBytes s.cfg s.cfg.msgError [s.cfg.errUnknownCommand])] s

/-- Derived from R173: no operation calls `get_mode()`. -/
def Obligations.GetModeIsNeverCalled : Prop :=
  ∀ (i : Instr) (s t : State), exec i s = .next t → .call .getMode ∈ t.outputs → .call .getMode ∈ s.outputs

/-! The command frames (R77, R89), whole, from `WaitForSOF` (log entry 9). Derived: the transitions of R112 to R121 in
order, then the dispatch. -/

/-- Derived from R77, R112 to R121, R163 (log entry 9). -/
def Obligations.SetMotorsFrameIsCarriedOut : Prop :=
  ∀ (s : State) (a b : I16), s.cfg.Wf → s.Ready → s.SinkReports → s.rx.state = .waitForSof →
    ∃ t, exec (.setMotors a b) s = .next t ∧ s.SameButContext t ∧
      t.outputs = s.outputs ++
        [.frameOut (goodFrameOut s.cfg.cmdSetMotors (i16Bytes s.cfg.byteOrder a ++ i16Bytes s.cfg.byteOrder b)),
         .call (.setMotors a b), .sinkSend (frameBytes s.cfg s.cfg.msgAck [s.cfg.cmdSetMotors])] ∧
      t.rx.state = .waitForSof ∧ t.rx.id = s.cfg.cmdSetMotors ∧ t.rx.len = 4 ∧ t.rx.idx = 4 ∧
      t.rx.csum = checksum s.cfg.cmdSetMotors 4 (i16Bytes s.cfg.byteOrder a ++ i16Bytes s.cfg.byteOrder b) ∧
      t.rx.buf.Holds (i16Bytes s.cfg.byteOrder a ++ i16Bytes s.cfg.byteOrder b) ∧
      ∀ k, 4 ≤ k → t.rx.buf.read k = s.rx.buf.read k

/-- Derived from R77, R112 to R121, R167 (log entry 9). -/
def Obligations.MoveStepsFrameIsCarriedOut : Prop :=
  ∀ (s : State) (a b : I32), s.cfg.Wf → s.Ready → s.SinkReports → s.rx.state = .waitForSof →
    ∃ t, exec (.moveSteps a b) s = .next t ∧ s.SameButContext t ∧
      t.outputs = s.outputs ++
        [.frameOut (goodFrameOut s.cfg.cmdMoveSteps (i32Bytes s.cfg.byteOrder a ++ i32Bytes s.cfg.byteOrder b)),
         .call (.moveSteps a b), .sinkSend (frameBytes s.cfg s.cfg.msgAck [s.cfg.cmdMoveSteps])] ∧
      t.rx.state = .waitForSof ∧ t.rx.id = s.cfg.cmdMoveSteps ∧ t.rx.len = 8 ∧ t.rx.idx = 8 ∧
      t.rx.csum = checksum s.cfg.cmdMoveSteps 8 (i32Bytes s.cfg.byteOrder a ++ i32Bytes s.cfg.byteOrder b) ∧
      t.rx.buf.Holds (i32Bytes s.cfg.byteOrder a ++ i32Bytes s.cfg.byteOrder b) ∧
      ∀ k, 8 ≤ k → t.rx.buf.read k = s.rx.buf.read k

/-- Derived from R77, R112 to R121, R164 to R166, R168 (log entry 9; the encoders' answer log entry 6): the four commands
without a payload. The context holds the frame's id, length 0 and checksum; that it keeps its buffer and its index is the
spec's own decision D13. That GETMODE has no payload and is answered with the unknown-command Error is its decision D21
(R77, R168). -/
def Obligations.EmptyCommandFramesAreCarriedOut : Prop :=
  ∀ s : State, s.cfg.Wf → s.Ready → s.SinkReports → s.rx.state = .waitForSof →
    (∃ t, exec .ping s = .next t ∧ s.SameButContext t ∧
      t.outputs = s.outputs ++
        [.frameOut (goodFrameOut 0x04 []), .sinkSend (frameBytes s.cfg s.cfg.msgPong [])] ∧
      t.rx = { s.rx with id := 0x04, len := 0, csum := 0x04 }) ∧
    (∃ t, exec .resetEncoders s = .next t ∧ s.SameButContext t ∧
      t.outputs = s.outputs ++
        [.frameOut (goodFrameOut s.cfg.cmdResetEncoders []), .call .resetEncoders,
         .sinkSend (frameBytes s.cfg s.cfg.msgAck [s.cfg.cmdResetEncoders])] ∧
      t.rx = { s.rx with id := s.cfg.cmdResetEncoders, len := 0, csum := s.cfg.cmdResetEncoders }) ∧
    (∃ t e1 e2, exec .getEncoders s = .next t ∧ s.SameButContext t ∧
      (∀ given, s.encoderAnswers.head? = some given → (e1, e2) = given) ∧
      t.outputs = s.outputs ++
        [.frameOut (goodFrameOut s.cfg.cmdGetEncoders []), .call .getEncoders,
         .sinkSend (frameBytes s.cfg s.cfg.msgEncoderData
          (i32Bytes s.cfg.byteOrder e1 ++ i32Bytes s.cfg.byteOrder e2))] ∧
      t.rx = { s.rx with id := s.cfg.cmdGetEncoders, len := 0, csum := s.cfg.cmdGetEncoders }) ∧
    (∃ t, exec .getMode s = .next t ∧ s.SameButContext t ∧
      t.outputs = s.outputs ++
        [.frameOut (goodFrameOut s.cfg.cmdGetMode []),
         .sinkSend (frameBytes s.cfg s.cfg.msgError [s.cfg.errUnknownCommand])] ∧
      t.rx = { s.rx with id := s.cfg.cmdGetMode, len := 0, csum := s.cfg.cmdGetMode })

/-! The error conditions (60_exceptions.md). -/

/-- Derived from R191 and R117: a declared length of 255 abandons the frame at its third byte, silently. That 255 alone is
abandoned is the spec's own decision D5 (R10); that the index is not written is D13 (R25, R117), of which R191 says
nothing. -/
def Obligations.OversizedLengthIsSilent : Prop :=
  ∀ (s : State) (id : Byte), s.Ready → s.rx.state = .waitForSof →
    feed [s.cfg.sof, id, 0xFF] s = .next { s with rx := { s.rx with id := id, len := 0xFF } }

/-- R192: a frame whose last byte is not `EOF` is discarded silently, whatever its checksum byte: the receiver is in
`WaitForSOF`, nothing is observed, and no answer of the environment is used. -/
def Obligations.MalformedTerminatorIsSilent : Prop :=
  ∀ (s : State) (id csum last : Byte) (payload : List Byte), s.Ready → s.rx.state = .waitForSof →
    payload.length ≤ 254 → last ≠ s.cfg.eof →
    ∃ rx, feed ([s.cfg.sof, id, BitVec.ofNat 8 payload.length] ++ payload ++ [csum, last]) s =
      .next { s with rx := rx } ∧ rx.state = .waitForSof

/-- Derived from R193: a structurally complete frame with a wrong checksum byte is answered with the bad-checksum Error and
no callback, whatever its id, and the receiver ends in `WaitForSOF`. That the frame is handed out with its verdict is the
spec's own decision D15. -/
def Obligations.ChecksumMismatchIsAnswered : Prop :=
  ∀ (s : State) (id csum : Byte) (payload : List Byte), s.Ready → s.SinkReports → s.rx.state = .waitForSof →
    payload.length ≤ 254 → csum ≠ checksum id (BitVec.ofNat 8 payload.length) payload →
    ∃ t, feed ([s.cfg.sof, id, BitVec.ofNat 8 payload.length] ++ payload ++ [csum, s.cfg.eof]) s = .next t ∧
      t.rx.state = .waitForSof ∧ s.SameButContext t ∧
      t.outputs = s.outputs ++
        [.frameOut { id := id, len := BitVec.ofNat 8 payload.length, payload := payload, csum := csum
                     csumOk := false },
         .sinkSend (frameBytes s.cfg s.cfg.msgError [s.cfg.errBadChecksum])]

/-- Derived from R194: a complete frame with a good checksum and an id that is none of the five dispatched commands,
whatever its payload, is answered with the unknown-command Error and no callback. That the mode query is among these ids
is the spec's own decision D21. -/
def Obligations.UnknownCommandIsAnswered : Prop :=
  ∀ (s : State) (id : Byte) (payload : List Byte), s.Ready → s.SinkReports → s.rx.state = .waitForSof →
    payload.length ≤ 254 →
    id ∉ [s.cfg.cmdSetMotors, s.cfg.cmdGetEncoders, s.cfg.cmdResetEncoders, 0x04, s.cfg.cmdMoveSteps] →
    ∃ t, feed (frameBytes s.cfg id payload) s = .next t ∧ t.rx.state = .waitForSof ∧ s.SameButContext t ∧
      t.outputs = s.outputs ++ [.frameOut (goodFrameOut id payload),
        .sinkSend (frameBytes s.cfg s.cfg.msgError [s.cfg.errUnknownCommand])]

/-- R195: a SetMotors frame whose length is not 4, or a MoveSteps frame whose length is not 8, with a good checksum, has
no response and no callback: beyond the receiver's context nothing but the `FrameOut` is different. -/
def Obligations.PayloadSizeMismatchIsSilent : Prop :=
  ∀ (s : State) (id : Byte) (payload : List Byte), s.cfg.Wf → s.Ready → s.rx.state = .waitForSof →
    payload.length ≤ 254 →
    (id = s.cfg.cmdSetMotors ∧ payload.length ≠ 4) ∨ (id = s.cfg.cmdMoveSteps ∧ payload.length ≠ 8) →
    ∃ rx, feed (frameBytes s.cfg id payload) s =
      .next { s with rx := rx, outputs := s.outputs ++ [.frameOut (goodFrameOut id payload)] } ∧
      rx.state = .waitForSof

/-! Reset, the whole machine, and the step. -/

/-- Derived from R220 (the spec's own decision D12): `Reset` puts the receiver in `WaitForSOF` and clears `tx.busy`, at
any time, without output, and leaves the parameters alone. That it leaves the pending inputs and the environment's
answers alone is the model's choice (log entry 23), on which R220 is silent. Of the other registers and the buffer the
statement says nothing. -/
def Obligations.ResetDiscardsTheFrameInProgress : Prop :=
  ∀ s : State, ∃ t, exec .reset s = .next t ∧ t.rx.state = .waitForSof ∧ t.txBusy = false ∧ t.wasReset = true ∧
    t.outputs = s.outputs ∧ t.cfg = s.cfg ∧ t.inbox = s.inbox ∧ t.sinkAnswers = s.sinkAnswers ∧
    t.encoderAnswers = s.encoderAnswers

/-- R221: the state after reset is in `WaitForSOF` with no pending output and `tx.busy` 0. -/
def Obligations.ResetStateWaitsForSof : Prop :=
  State.reset.rx.state = .waitForSof ∧ State.reset.txBusy = false ∧ State.reset.outputs = []

/-- Derived from R222 (U14; log entry 13): `RxByte` on a machine that was never reset has no meaning. -/
def Obligations.RxByteBeforeResetIsRefused : Prop :=
  ∀ (s : State) (b : Byte), s.wasReset = false →
    (∀ t, rxByte b s ≠ .next t) ∧ (∀ e, rxByte b s ≠ .fault e)

/-- Derived from R31: the parameters are constants, written by no step. -/
def Obligations.ParametersNeverChange : Prop :=
  ∀ s t : State, step s = .next t → t.cfg = s.cfg

/-- Derived from R27, R33 and R34: only the transitions and `Reset` write the receiver's context: the checksum engine,
the encoder and the dispatcher leave every register and every cell of it alone. -/
def Obligations.OnlyTheReceiverWritesTheContext : Prop :=
  ∀ (i : Instr) (s t : State), exec i s = .next t →
    (i.format = .dispatch ∨ (∃ id len p, i = .checksum id len p) ∨ (∃ id p, i = .encode id p) ∨
      (∃ a b, i = .encoderData a b) ∨ (∃ m, i = .modeData m) ∨ (∃ c, i = .ack c) ∨ (∃ e, i = .error e) ∨
      i = .pong) →
    t.rx = s.rx ∧ ∀ a, t.rx.buf.read a = s.rx.buf.read a

/-- Derived from R36, which the spec derives from the transitions: every step, on every input, keeps the invariant (R36(a),
(c), (d)), and keeps the context what the consecutive inbound bytes since the last `SOF` made it (R36(b)): with the bytes
this step takes after those before it, the cells hold the payload bytes in the order they came since the last
`ReadLength` step. Across a RESET the clause `rx.idx ≤ 254` rests on log entry 3: the free index is drawn at most 254, read
from R36(c). The bits for a `Reset` applied and for a busy encoder, which the invariant asks for, are log entries 13 and
12. -/
def Obligations.EveryStepKeepsTheContextInvariant : Prop :=
  ∀ s t : State, step s = .next t →
    (s.Inv → t.Inv) ∧ ∀ inbound, s.Received inbound → t.Received (inbound ++ s.takes)

/-- Derived from R36, R221: the invariant holds after reset, whatever the parameters of the built block, with no inbound byte
taken. The clause `rx.idx ≤ 254` holds there by the zero of log entry 2, the model's choice of a value that R36(c) admits;
the canonical form of the buffer by log entry 4, which lists no cell; the bit for a `Reset` applied is log entry 13, and
that the parameters of `State.reset` meet the spec's constraints is log entry 1. -/
def Obligations.ResetMeetsTheContextInvariant : Prop :=
  (State.reset.Inv ∧ State.reset.Received []) ∧
  ∀ c : Config, c.Wf → (State.resetWith c).Inv ∧ (State.resetWith c).Received []

/-- Derived from R35, R190, U13: in a state that meets the invariant no step reads a cell that holds no value or one
that does not exist; the only fault is a sink that never reports. That reading such a cell would fault is log entry 4, that
the stuck state of the sink is a named fault log entry 5. -/
def Obligations.OnlyAHangingSinkStopsTheBlock : Prop :=
  ∀ (s : State) (e : Fault), s.Inv → step s = .fault e → e = .sinkNeverReports ∧ .never ∈ s.sinkAnswers

/-- Derived from R17, R61: the step takes the oldest pending input and runs the operation it decodes to, whole; an
inbound byte is the receiver's `RxByte`. A rejected word is refused by the decoder's name for it. -/
def Obligations.StepRunsTheDecodedOperation : Prop :=
  (∀ (s : State) (input : Input) (rest : List Input) (i : Instr), s.inbox = input :: rest →
    decode s.cfg (s.wordOf input) = .ok i → step s = exec i { s with inbox := rest }) ∧
  (∀ (s : State) (b : Byte) (rest : List Input), s.inbox = .rxByte b :: rest →
    step s = rxByte b { s with inbox := rest }) ∧
  (∀ (s : State) (input : Input) (rest : List Input) (e : DecodeError), s.inbox = input :: rest →
    decode s.cfg (s.wordOf input) = .error e → step s = .refused (.undecodable e))

/-- Derived from R126, R208 (log entry 7): with no input the machine waits, its state unchanged; no step is caused by
anything but an input. -/
def Obligations.MachineWaitsForInput : Prop :=
  ∀ s : State, s.inbox = [] → step s = .next s
end

