-- ==== Sys2Proof/Laws/Memory.lean ====
section
/-! SUPPORT. The payload buffer: reads after writes, and every operation keeps the canonical form. -/

namespace Sys2Proof.Machine

theorem Memory.read_write_self (m : Memory) (a : Nat) (v : Byte) : (m.write a v).read a = some v := by
  induction m with
  | nil => simp [Memory.write, Memory.read]
  | cons c m ih =>
    obtain ⟨k, w⟩ := c
    simp only [Memory.write]
    split
    · simp [Memory.read]
    · split
      · simp [Memory.read]
      · next h => simp [Memory.read, Ne.symm h, ih]

theorem Memory.read_write_of_ne (m : Memory) {a x : Nat} (v : Byte) (h : x ≠ a) :
    (m.write a v).read x = m.read x := by
  induction m with
  | nil => simp [Memory.write, Memory.read, Ne.symm h]
  | cons c m ih =>
    obtain ⟨k, w⟩ := c
    simp only [Memory.write]
    split
    · simp [Memory.read, Ne.symm h]
    · split
      · next e => subst e; simp [Memory.read, Ne.symm h]
      · simp [Memory.read, ih]

theorem Memory.wf_cons (k : Nat) (v : Byte) (m : Memory) :
    Memory.wf ((k, v) :: m) = true ↔
      k < Config.rxBufSize ∧ Memory.wf m = true ∧ ∀ c ∈ m.head?, k < c.1 := by
  induction m generalizing k v with
  | nil => simp [Memory.wf]
  | cons c m ih =>
    obtain ⟨l, w⟩ := c
    simp only [Memory.wf, Bool.and_eq_true, decide_eq_true_eq, List.head?_cons, Option.mem_def,
      Option.some.injEq, forall_eq']
    constructor
    · rintro ⟨hk, hm⟩
      exact ⟨hk.trans ((ih l w).1 hm).1, hm, hk⟩
    · rintro ⟨_, hm, hk⟩
      exact ⟨hk, hm⟩

theorem Memory.head_write (m : Memory) (a : Nat) (v : Byte) :
    ∀ c ∈ (m.write a v).head?, c.1 = a ∨ ∃ d ∈ m.head?, c.1 = d.1 := by
  cases m with
  | nil => simp [Memory.write]
  | cons c m =>
    obtain ⟨k, w⟩ := c
    simp only [Memory.write]
    split
    · simp
    · split <;> simp

/-- A write to a cell of the buffer keeps the canonical form. -/
theorem Memory.write_wf (m : Memory) (a : Nat) (v : Byte) (h : Memory.wf m = true) (ha : a < Config.rxBufSize) :
    Memory.wf (m.write a v) = true := by
  induction m with
  | nil => simpa [Memory.write, Memory.wf] using ha
  | cons c m ih =>
    obtain ⟨k, w⟩ := c
    obtain ⟨hk, hm, hh⟩ := (Memory.wf_cons k w m).1 h
    simp only [Memory.write]
    split
    · next hlt => exact (Memory.wf_cons ..).2 ⟨ha, h, by simpa using hlt⟩
    · split
      · next e => subst e; exact (Memory.wf_cons ..).2 ⟨hk, hm, hh⟩
      · next hlt hne =>
        refine (Memory.wf_cons ..).2 ⟨hk, ih hm, fun c hc => ?_⟩
        rcases Memory.head_write m a v c hc with e | ⟨d, hd, e⟩
        · omega
        · rw [e]; exact hh d hd

theorem reset_buf_wf (c : Config) : (State.resetWith c).rx.buf.wf = true := rfl

/-- All that `memWrite` can answer. -/
theorem memWrite_eq_ok {m m' : Memory} {a : Nat} {v : Byte} :
    memWrite m a v = .ok m' ↔ a < Config.rxBufSize ∧ m' = m.write a v := by
  unfold memWrite
  split <;> simp_all [eq_comm]

theorem memWrite_wf {m m' : Memory} {a : Nat} {v : Byte} (h : Memory.wf m = true) (hw : memWrite m a v = .ok m') :
    Memory.wf m' = true := by
  obtain ⟨ha, rfl⟩ := memWrite_eq_ok.1 hw
  exact Memory.write_wf m a v h ha

/-- All that `memRead` can answer. -/
theorem memRead_eq_ok {m : Memory} {a : Nat} {v : Byte} :
    memRead m a = .ok v ↔ a < Config.rxBufSize ∧ m.read a = some v := by
  unfold memRead
  split
  · cases h : m.read a <;> simp_all
  · simp_all

/-- All that `memReadList` can answer. -/
theorem memReadList_eq_ok {m : Memory} {a n : Nat} {vs : List Byte} :
    memReadList m a n = .ok vs ↔ vs.length = n ∧ ∀ k (h : k < vs.length), memRead m (a + k) = .ok vs[k] := by
  induction n generalizing a vs with
  | zero =>
    simp only [memReadList, Except.ok.injEq]
    constructor
    · rintro rfl; simp
    · rintro ⟨h, _⟩; exact (List.length_eq_zero_iff.1 h).symm
  | succ n ih =>
    simp only [memReadList]
    cases vs with
    | nil => cases memRead m a <;> [simp; (cases memReadList m (a + 1) n <;> simp)]
    | cons v vs =>
      cases h : memRead m a with
      | error e =>
        simp only [reduceCtorEq, List.length_cons, Nat.add_right_cancel_iff, false_iff, not_and]
        intro _ hk
        simpa [h] using hk 0 (by simp)
      | ok w =>
        cases h' : memReadList m (a + 1) n with
        | error e =>
          simp only [reduceCtorEq, false_iff, not_and]
          intro hl hk
          have := (ih (a := a + 1) (vs := vs)).2 ⟨by simpa using hl, fun k hk' => by
            have := hk (k + 1) (by simpa using hk')
            simpa [Nat.add_assoc, Nat.add_comm 1] using this⟩
          simp [h'] at this
        | ok ws =>
          have hws := (ih (a := a + 1) (vs := ws)).1 h'
          simp only [Except.ok.injEq, List.cons.injEq, List.length_cons, Nat.add_right_cancel_iff]
          constructor
          · rintro ⟨rfl, rfl⟩
            refine ⟨hws.1, fun k hk => ?_⟩
            cases k with
            | zero => simpa using h
            | succ k => simpa [Nat.add_assoc, Nat.add_comm 1] using hws.2 k (by simpa using hk)
          · rintro ⟨hl, hk⟩
            have h0 := hk 0 (by simp)
            simp only [Nat.add_zero, h, Except.ok.injEq, List.getElem_cons_zero] at h0
            have := (ih (a := a + 1) (vs := vs)).2 ⟨hl, fun k hk' => by
              have := hk (k + 1) (by simpa using hk')
              simpa [Nat.add_assoc, Nat.add_comm 1] using this⟩
            rw [h'] at this
            exact ⟨h0, by simpa using this⟩

/-- A buffer whose first cells are written can be read there, and only a hole or the end of the buffer stops a read. -/
theorem memReadList_of_holds {m : Memory} {payload : List Byte} (h : m.Holds payload)
    (hl : payload.length ≤ Config.rxBufSize) : memReadList m 0 payload.length = .ok payload :=
  memReadList_eq_ok.2 ⟨rfl, fun k hk => memRead_eq_ok.2 ⟨by omega, by simpa using h k hk⟩⟩

/-- No payload byte is held yet. -/
@[simp] theorem Memory.holds_nil (m : Memory) : m.Holds [] := nofun

/-- A byte written to the cell after the payload's last is the payload's next byte. -/
theorem Memory.Holds.append {m : Memory} {payload : List Byte} (h : m.Holds payload) (b : Byte) :
    (m.write payload.length b).Holds (payload ++ [b]) := by
  intro k hk
  by_cases e : k = payload.length
  · subst e; simp [Memory.read_write_self]
  · have hk' : k < payload.length := by simp at hk; omega
    rw [Memory.read_write_of_ne _ _ e, List.getElem_append_left hk']
    exact h k hk'

/-- Written cells hold some payload. -/
theorem Memory.Written.holds {m : Memory} {n : Nat} (h : m.Written n) :
    ∃ payload : List Byte, payload.length = n ∧ m.Holds payload := by
  refine ⟨(List.range n).map fun k => (m.read k).getD 0, by simp, fun k hk => ?_⟩
  have hk' : k < n := by simpa using hk
  obtain ⟨v, hv⟩ := Option.isSome_iff_exists.1 (h k hk')
  simp [hv]

end Sys2Proof.Machine
end

