-- ==== Sys2Proof/Laws/Operands.lean ====
section
/-! SUPPORT. Sizes of the payload records, and the checksum one byte at a time. -/

namespace Sys2Proof

@[simp] theorem i16Bytes_length (o : ByteOrder) (v : I16) : (i16Bytes o v).length = 2 := by cases o <;> rfl

@[simp] theorem i32Bytes_length (o : ByteOrder) (v : I32) : (i32Bytes o v).length = 4 := by cases o <;> rfl

@[simp] theorem pair16Bytes_length (o : ByteOrder) (a b : I16) : (pair16Bytes o a b).length = 4 := by
  simp [pair16Bytes]

@[simp] theorem pair32Bytes_length (o : ByteOrder) (a b : I32) : (pair32Bytes o a b).length = 8 := by
  simp [pair32Bytes]

/-- An empty payload leaves `id ^ length` (R100). -/
@[simp] theorem checksum_nil (id length : Byte) : checksum id length [] = id ^^^ length := rfl

/-- One payload byte is folded into the accumulated value, which stands in the place of the id. -/
theorem checksum_cons (id length b : Byte) (payload : List Byte) :
    checksum id length (b :: payload) = checksum (id ^^^ b) length payload := by
  simp only [checksum, List.foldl_cons]
  rw [BitVec.xor_assoc, BitVec.xor_comm length b, ← BitVec.xor_assoc]

/-- The length byte of a payload of up to 254 bytes is its size. -/
theorem lengthByte_toNat {payload : List Byte} (h : payload.length ≤ 254) :
    (lengthByte payload).toNat = payload.length := by
  simp only [lengthByte, BitVec.toNat_ofNat]
  omega

end Sys2Proof
end

