-- ==== Sys2Proof/Laws/State.lean ====
section
/-! SUPPORT. What each update of the state leaves of each field, so that no proof unfolds a record update. -/

namespace Sys2Proof.Machine

@[simp] theorem State.setRx_cfg (s : State) (rx : RxContext) : (s.setRx rx).cfg = s.cfg := rfl
@[simp] theorem State.setRx_wasReset (s : State) (rx : RxContext) : (s.setRx rx).wasReset = s.wasReset := rfl
@[simp] theorem State.setRx_rx (s : State) (rx : RxContext) : (s.setRx rx).rx = rx := rfl
@[simp] theorem State.setRx_txBusy (s : State) (rx : RxContext) : (s.setRx rx).txBusy = s.txBusy := rfl
@[simp] theorem State.setRx_inbox (s : State) (rx : RxContext) : (s.setRx rx).inbox = s.inbox := rfl
@[simp] theorem State.setRx_sinkAnswers (s : State) (rx : RxContext) : (s.setRx rx).sinkAnswers = s.sinkAnswers := rfl
@[simp] theorem State.setRx_encoderAnswers (s : State) (rx : RxContext) : (s.setRx rx).encoderAnswers = s.encoderAnswers := rfl
@[simp] theorem State.setRx_outputs (s : State) (rx : RxContext) : (s.setRx rx).outputs = s.outputs := rfl
@[simp] theorem State.setRx_fresh (s : State) (rx : RxContext) : (s.setRx rx).fresh = s.fresh := rfl

@[simp] theorem State.setRxState_cfg (s : State) (st : RxState) : (s.setRxState st).cfg = s.cfg := rfl
@[simp] theorem State.setRxState_wasReset (s : State) (st : RxState) : (s.setRxState st).wasReset = s.wasReset := rfl
@[simp] theorem State.setRxState_rx (s : State) (st : RxState) : (s.setRxState st).rx = { s.rx with state := st } := rfl
@[simp] theorem State.setRxState_txBusy (s : State) (st : RxState) : (s.setRxState st).txBusy = s.txBusy := rfl
@[simp] theorem State.setRxState_inbox (s : State) (st : RxState) : (s.setRxState st).inbox = s.inbox := rfl
@[simp] theorem State.setRxState_sinkAnswers (s : State) (st : RxState) : (s.setRxState st).sinkAnswers = s.sinkAnswers := rfl
@[simp] theorem State.setRxState_encoderAnswers (s : State) (st : RxState) : (s.setRxState st).encoderAnswers = s.encoderAnswers := rfl
@[simp] theorem State.setRxState_outputs (s : State) (st : RxState) : (s.setRxState st).outputs = s.outputs := rfl
@[simp] theorem State.setRxState_fresh (s : State) (st : RxState) : (s.setRxState st).fresh = s.fresh := rfl

@[simp] theorem State.setTxBusy_cfg (s : State) (b : Bool) : (s.setTxBusy b).cfg = s.cfg := rfl
@[simp] theorem State.setTxBusy_wasReset (s : State) (b : Bool) : (s.setTxBusy b).wasReset = s.wasReset := rfl
@[simp] theorem State.setTxBusy_rx (s : State) (b : Bool) : (s.setTxBusy b).rx = s.rx := rfl
@[simp] theorem State.setTxBusy_txBusy (s : State) (b : Bool) : (s.setTxBusy b).txBusy = b := rfl
@[simp] theorem State.setTxBusy_inbox (s : State) (b : Bool) : (s.setTxBusy b).inbox = s.inbox := rfl
@[simp] theorem State.setTxBusy_sinkAnswers (s : State) (b : Bool) : (s.setTxBusy b).sinkAnswers = s.sinkAnswers := rfl
@[simp] theorem State.setTxBusy_encoderAnswers (s : State) (b : Bool) : (s.setTxBusy b).encoderAnswers = s.encoderAnswers := rfl
@[simp] theorem State.setTxBusy_outputs (s : State) (b : Bool) : (s.setTxBusy b).outputs = s.outputs := rfl
@[simp] theorem State.setTxBusy_fresh (s : State) (b : Bool) : (s.setTxBusy b).fresh = s.fresh := rfl

@[simp] theorem State.output_cfg (s : State) (o : Output) : (s.output o).cfg = s.cfg := rfl
@[simp] theorem State.output_wasReset (s : State) (o : Output) : (s.output o).wasReset = s.wasReset := rfl
@[simp] theorem State.output_rx (s : State) (o : Output) : (s.output o).rx = s.rx := rfl
@[simp] theorem State.output_txBusy (s : State) (o : Output) : (s.output o).txBusy = s.txBusy := rfl
@[simp] theorem State.output_inbox (s : State) (o : Output) : (s.output o).inbox = s.inbox := rfl
@[simp] theorem State.output_sinkAnswers (s : State) (o : Output) : (s.output o).sinkAnswers = s.sinkAnswers := rfl
@[simp] theorem State.output_encoderAnswers (s : State) (o : Output) : (s.output o).encoderAnswers = s.encoderAnswers := rfl
@[simp] theorem State.output_outputs (s : State) (o : Output) : (s.output o).outputs = s.outputs ++ [o] := rfl
@[simp] theorem State.output_fresh (s : State) (o : Output) : (s.output o).fresh = s.fresh := rfl

@[simp] theorem State.setInbox_cfg (s : State) (l : List Input) : (s.setInbox l).cfg = s.cfg := rfl
@[simp] theorem State.setInbox_wasReset (s : State) (l : List Input) : (s.setInbox l).wasReset = s.wasReset := rfl
@[simp] theorem State.setInbox_rx (s : State) (l : List Input) : (s.setInbox l).rx = s.rx := rfl
@[simp] theorem State.setInbox_txBusy (s : State) (l : List Input) : (s.setInbox l).txBusy = s.txBusy := rfl
@[simp] theorem State.setInbox_inbox (s : State) (l : List Input) : (s.setInbox l).inbox = l := rfl
@[simp] theorem State.setInbox_sinkAnswers (s : State) (l : List Input) : (s.setInbox l).sinkAnswers = s.sinkAnswers := rfl
@[simp] theorem State.setInbox_encoderAnswers (s : State) (l : List Input) : (s.setInbox l).encoderAnswers = s.encoderAnswers := rfl
@[simp] theorem State.setInbox_outputs (s : State) (l : List Input) : (s.setInbox l).outputs = s.outputs := rfl
@[simp] theorem State.setInbox_fresh (s : State) (l : List Input) : (s.setInbox l).fresh = s.fresh := rfl

@[simp] theorem State.setRx_setRx (s : State) (rx rx' : RxContext) : (s.setRx rx).setRx rx' = s.setRx rx' := rfl

@[simp] theorem State.setRx_self (s : State) : s.setRx s.rx = s := rfl

theorem State.SameBlock.refl (s : State) : s.SameBlock s := ⟨rfl, rfl, rfl, fun _ => rfl, rfl, rfl⟩

theorem State.SameBlock.trans {s t u : State} (h : s.SameBlock t) (k : t.SameBlock u) : s.SameBlock u :=
  ⟨k.cfg.trans h.cfg, k.wasReset.trans h.wasReset, k.rx.trans h.rx, fun a => (k.cells a).trans (h.cells a),
    k.txBusy.trans h.txBusy, k.inbox.trans h.inbox⟩

/-- Equal fields give the same block: the clause on the cells follows from the context's. -/
theorem State.SameBlock.of_eq {s t : State} (cfg : t.cfg = s.cfg) (wasReset : t.wasReset = s.wasReset)
    (rx : t.rx = s.rx) (txBusy : t.txBusy = s.txBusy) (inbox : t.inbox = s.inbox) : s.SameBlock t :=
  ⟨cfg, wasReset, rx, fun a => by rw [rx], txBusy, inbox⟩

end Sys2Proof.Machine
end

