-- ==== Sys2Proof/Laws/Ops.lean ====
section
/-! SUPPORT. What each shared operation can answer, said once. -/

namespace Sys2Proof.Machine

/-- What the environment's answers and the observation leave of the block. -/
theorem SameBlock_output (s : State) (o : Output) : s.SameBlock (s.output o) := .of_eq rfl rfl rfl rfl rfl

/-- A sink that reports answers a status, using one answer; nothing else changes but the count of free values. -/
theorem askSink_reports {s : State} (h : s.SinkReports) :
    ∃ status t, askSink s = some (status, t) ∧ t.outputs = s.outputs ∧
      (∀ given, s.sinkAnswers.head? = some (.reports given) → status = given) ∧
      s.SameBlock t ∧ t.sinkAnswers = s.sinkAnswers.tail ∧ t.encoderAnswers = s.encoderAnswers := by
  unfold askSink
  unfold State.SinkReports at h
  cases hs : s.sinkAnswers with
  | nil => exact ⟨_, _, rfl, rfl, by simp, .of_eq rfl rfl rfl rfl rfl, by simp, rfl⟩
  | cons x rest =>
    cases x with
    | reports status => exact ⟨_, _, rfl, rfl, by simp, .of_eq rfl rfl rfl rfl rfl, rfl, rfl⟩
    | never => simp [hs] at h

/-- A sink that does not report. -/
theorem askSink_never {s : State} (h : ¬ s.SinkReports) : askSink s = none := by
  unfold askSink
  unfold State.SinkReports at h
  cases hs : s.sinkAnswers with
  | nil => simp [hs] at h
  | cons x rest => cases x <;> simp_all

/-- All that `encodeSend` can answer. -/
theorem encodeSend_cases (id : Byte) (payload : List Byte) (s : State) :
    (254 < payload.length ∧ encodeSend id payload s = .refused .payloadTooLong) ∨
    (payload.length ≤ 254 ∧ s.txBusy = true ∧ encodeSend id payload s = .refused .encoderBusy) ∨
    (payload.length ≤ 254 ∧ s.txBusy = false ∧ ¬ s.SinkReports ∧
      encodeSend id payload s = .fault .sinkNeverReports) ∨
    (payload.length ≤ 254 ∧ s.txBusy = false ∧ s.SinkReports ∧
      ∃ status t, encodeSend id payload s = .next (status, t) ∧
        t.outputs = s.outputs ++ [.sinkSend (frameBytes s.cfg id payload)] ∧
        (∀ given, s.sinkAnswers.head? = some (.reports given) → status = given) ∧
        s.SameBlock t ∧ t.sinkAnswers = s.sinkAnswers.tail ∧ t.encoderAnswers = s.encoderAnswers) := by
  by_cases hp : 254 < payload.length
  · exact .inl ⟨hp, by simp [encodeSend, hp]⟩
  have hp' : payload.length ≤ 254 := by omega
  cases hb : s.txBusy with
  | true => exact .inr (.inl ⟨hp', rfl, by simp [encodeSend, hp, hb]⟩)
  | false =>
    have key : encodeSend id payload s = sinkSend (frameBytes s.cfg id payload) s := by
      simp [encodeSend, hp, hb]
    let u := (s.setTxBusy true).output (.sinkSend (frameBytes s.cfg id payload))
    by_cases hs : s.SinkReports
    · obtain ⟨status, t, ht, ho, hg, hsame, hsink, henc⟩ := askSink_reports (s := u) hs
      refine .inr (.inr (.inr ⟨hp', rfl, hs, status, t.setTxBusy false, ?_, ?_, hg, ?_, hsink, henc⟩))
      · rw [key]; simp only [sinkSend]; rw [ht]
      · simpa [u] using ho
      · exact .of_eq hsame.cfg hsame.wasReset hsame.rx (by simp [hb]) hsame.inbox
    · refine .inr (.inr (.inl ⟨hp', rfl, hs, ?_⟩))
      rw [key]; simp only [sinkSend]; rw [askSink_never (s := u) hs]

/-- A request the encoder can take is sent, and the status is dropped. -/
theorem respond_next {s : State} (id : Byte) (payload : List Byte) (hp : payload.length ≤ 254)
    (hb : s.txBusy = false) (hs : s.SinkReports) :
    ∃ t, respond id payload s = .next t ∧
      t.outputs = s.outputs ++ [.sinkSend (frameBytes s.cfg id payload)] ∧ s.SameBlock t ∧
      t.sinkAnswers = s.sinkAnswers.tail ∧ t.encoderAnswers = s.encoderAnswers := by
  rcases encodeSend_cases id payload s with h | h | h | h
  · omega
  · simp [hb] at h
  · exact absurd hs h.2.2.1
  · obtain ⟨_, _, _, status, t, he, ho, _, hsame, hsink, henc⟩ := h
    exact ⟨t, by simp [respond, he], ho, hsame, hsink, henc⟩

/-- All that a next state of `respond` can be. -/
theorem respond_eq_next {s t : State} {id : Byte} {payload : List Byte} (h : respond id payload s = .next t) :
    t.outputs = s.outputs ++ [.sinkSend (frameBytes s.cfg id payload)] ∧ s.SameBlock t ∧
      t.sinkAnswers = s.sinkAnswers.tail ∧ t.encoderAnswers = s.encoderAnswers := by
  rcases encodeSend_cases id payload s with h' | h' | h' | h'
  · simp [respond, h'.2] at h
  · simp [respond, h'.2.2] at h
  · simp [respond, h'.2.2.2] at h
  · obtain ⟨_, _, _, status, u, he, ho, _, hsame, hsink, henc⟩ := h'
    simp only [respond, he, Host.Outcome.next.injEq] at h
    exact h ▸ ⟨ho, hsame, hsink, henc⟩

/-- All that a next state of `encodeCall` can be. -/
theorem encodeCall_eq_next {s t : State} {id : Byte} {payload : List Byte} (h : encodeCall id payload s = .next t) :
    (∃ status, t.outputs = s.outputs ++ [.sinkSend (frameBytes s.cfg id payload), .encodeStatus status]) ∧
      s.SameBlock t ∧ t.sinkAnswers = s.sinkAnswers.tail ∧ t.encoderAnswers = s.encoderAnswers := by
  rcases encodeSend_cases id payload s with h' | h' | h' | h'
  · simp [encodeCall, h'.2] at h
  · simp [encodeCall, h'.2.2] at h
  · simp [encodeCall, h'.2.2.2] at h
  · obtain ⟨_, _, _, status, u, he, ho, _, hsame, hsink, henc⟩ := h'
    simp only [encodeCall, he, Host.Outcome.next.injEq] at h
    subst h
    exact ⟨⟨status, by simp [ho]⟩, hsame.trans (SameBlock_output ..), hsink, henc⟩

/-- One answer of `get_encoders()` changes nothing of the block, and no output; it uses one of the answers given. -/
theorem askEncoders_same (s : State) :
    s.SameBlock (askEncoders s).2 ∧ (askEncoders s).2.outputs = s.outputs ∧
      (askEncoders s).2.sinkAnswers = s.sinkAnswers ∧ (askEncoders s).2.encoderAnswers = s.encoderAnswers.tail := by
  unfold askEncoders
  cases h : s.encoderAnswers with
  | nil => exact ⟨.of_eq rfl rfl rfl rfl rfl, rfl, rfl, rfl⟩
  | cons e rest => exact ⟨.of_eq rfl rfl rfl rfl rfl, rfl, rfl, rfl⟩

/-- A ready receiver runs the transition. -/
@[simp] theorem receive_ready {s : State} {condition : Bool} (k : State → Result) (hr : s.Ready)
    (hc : condition = true) : receive condition s k = k s := by
  simp [receive, hr.wasReset, hr.notBusy, hc]

/-- A receiver that answers a next state was ready, and the condition held. -/
theorem receive_eq_next {s t : State} {condition : Bool} {k : State → Result}
    (h : receive condition s k = .next t) : s.Ready ∧ condition = true ∧ k s = .next t := by
  unfold receive at h
  split at h
  · simp at h
  · split at h
    · simp at h
    · split at h
      · next hw hb hc => exact ⟨⟨by simpa using hw, by simpa using hb⟩, hc, h⟩
      · simp at h

/-- A transition that stops with a fault was run. -/
theorem receive_eq_fault {s : State} {condition : Bool} {k : State → Result} {e : Fault}
    (h : receive condition s k = .fault e) : s.Ready ∧ condition = true ∧ k s = .fault e := by
  unfold receive at h
  split at h
  · simp at h
  · split at h
    · simp at h
    · split at h
      · next hw hb hc => exact ⟨⟨by simpa using hw, by simpa using hb⟩, hc, h⟩
      · simp at h

/-- An index below the buffer's size is stored to. -/
theorem appendByte_next (b : Byte) (next : RxState) (s : State) (h : s.rx.idx.toNat < Config.rxBufSize) :
    appendByte b next s = .next (s.setRx
      { s.rx with buf := s.rx.buf.write s.rx.idx.toNat b, idx := s.rx.idx + 1, state := next }) := by
  simp [appendByte, memWrite, h]

end Sys2Proof.Machine
end

