-- ==== Sys2Proof/Laws/Decode.lean ====
section
/-! SUPPORT. The decoder and the fetch: what the word of an inbound byte decodes to, and that running the decoded row is
running the transition. -/

namespace Sys2Proof

@[simp] theorem RxState.ofCode_code (st : RxState) : RxState.ofCode st.code = some st := by
  cases st <;> decide

/-- A transition's word is decoded by the decode table. -/
@[simp] theorem decode_rxStep (c : Config) (st : RxState) (b idx len : Byte) :
    decode c (.rxStep st.code b idx len) = (decodeRx c st b idx len).map (RxOp.instr b) := by
  simp only [decode, RxState.ofCode_code]
  cases decodeRx c st b idx len <;> rfl

/-- A `FrameOut` is decoded by the dispatcher's decode. -/
@[simp] theorem decode_dispatch (c : Config) (f : FrameOut) :
    decode c (.dispatch f) = (decodeDispatch c f).map DispOp.instr := by
  simp only [decode]
  cases decodeDispatch c f <;> rfl

theorem Byte.eq_zero_iff (b : Byte) : b = 0 ↔ b.toNat = 0 :=
  ⟨fun h => by simp [h], fun h => BitVec.eq_of_toNat_eq (by simpa using h)⟩

namespace Machine

/-- The row of a transition and the transition are one. -/
theorem exec_rxInstr (op : RxOp) (b : Byte) (s : State) : exec (op.instr b) s = runTransition op b s := by
  cases op <;> rfl

/-- The row of a branch and the branch are one. -/
theorem exec_dispInstr (op : DispOp) (s : State) : exec op.instr s = runBranch op s := by
  cases op <;> rfl

/-- The transition that is selected is the one `RxByte` runs. -/
theorem rxByte_of_decode {s : State} {b : Byte} {op : RxOp}
    (h : decodeRx s.cfg s.rx.state b s.rx.idx s.rx.len = .ok op) : rxByte b s = runTransition op b s := by
  simp [rxByte, h]

/-- The row the decode table selects for a byte takes exactly that byte. -/
theorem inboundOf_rxInstr {c : Config} {st : RxState} {b idx len : Byte} {op : RxOp}
    (h : decodeRx c st b idx len = .ok op) : inboundOf c (op.instr b) = [b] := by
  cases st <;> simp only [decodeRx] at h <;> (repeat' split at h) <;>
    simp only [Except.ok.injEq, reduceCtorEq] at h <;> subst h <;> simp_all [RxOp.instr, inboundOf]

/-- The branch that is selected is the one the dispatcher runs. -/
theorem dispatch_of_decode {s : State} {f : FrameOut} {op : DispOp} (h : decodeDispatch s.cfg f = .ok op) :
    dispatch f s = runBranch op s := by
  simp [dispatch, h]

/-- A `FrameOut` that holds its `len` bytes, with the right payload size by construction, is never rejected. -/
theorem decodeDispatch_total (c : Config) (f : FrameOut) (h : f.payload.length = f.len.toNat) :
    ∃ op, decodeDispatch c f = .ok op := by
  unfold decodeDispatch
  split
  · exact ⟨_, rfl⟩
  split
  · split
    · next hl =>
      rw [hl] at h
      obtain ⟨b0, b1, b2, b3, hp⟩ : ∃ b0 b1 b2 b3, f.payload = [b0, b1, b2, b3] := by
        match hf : f.payload, h with
        | [a, b, c, d], _ => exact ⟨a, b, c, d, rfl⟩
      rw [hp]; exact ⟨_, rfl⟩
    · exact ⟨_, rfl⟩
  split
  · exact ⟨_, rfl⟩
  split
  · exact ⟨_, rfl⟩
  split
  · exact ⟨_, rfl⟩
  split
  · split
    · next hl =>
      rw [hl] at h
      obtain ⟨b0, b1, b2, b3, b4, b5, b6, b7, hp⟩ :
          ∃ b0 b1 b2 b3 b4 b5 b6 b7, f.payload = [b0, b1, b2, b3, b4, b5, b6, b7] := by
        match hf : f.payload, h with
        | [a, b, c, d, e, f, g, i], _ => exact ⟨a, b, c, d, e, f, g, i, rfl⟩
      rw [hp]; exact ⟨_, rfl⟩
    · exact ⟨_, rfl⟩
  · exact ⟨_, rfl⟩

/-- Every next state of a transition: the receiver was ready, the row's condition held, and this is the state. -/
theorem runTransition_eq_next {op : RxOp} {b : Byte} {s t : State} (h : runTransition op b s = .next t) :
    s.Ready ∧
    match op with
    | .waitSof => s.rx.state = .waitForSof ∧ t = s.setRxState .readId
    | .waitSkip => s.rx.state = .waitForSof ∧ b ≠ s.cfg.sof ∧ t = s
    | .id => s.rx.state = .readId ∧ t = s.setRx { s.rx with id := b, state := .readLength }
    | .lenZero => s.rx.state = .readLength ∧ t = s.setRx { s.rx with len := 0, state := .readChecksum }
    | .lenOk => s.rx.state = .readLength ∧ lengthAccepted b = true ∧
        t = s.setRx { s.rx with len := b, idx := 0, state := .readPayload }
    | .lenOver => s.rx.state = .readLength ∧ lengthOver b = true ∧
        t = s.setRx { s.rx with len := b, state := .waitForSof }
    | .payMore => s.rx.state = .readPayload ∧ payloadMore s.rx.idx s.rx.len = true ∧
        appendByte b .readPayload s = .next t
    | .payLast => s.rx.state = .readPayload ∧ payloadLast s.rx.idx s.rx.len = true ∧
        appendByte b .readChecksum s = .next t
    | .csum => s.rx.state = .readChecksum ∧ t = s.setRx { s.rx with csum := b, state := .readEof }
    | .eofOk => s.rx.state = .readEof ∧ completeFrame s = .next t
    | .eofBad => s.rx.state = .readEof ∧ b ≠ s.cfg.eof ∧ t = s.setRxState .waitForSof := by
  cases op <;>
  · simp only [runTransition, execRxWaitSof, execRxWaitSkip, execRxId, execRxLenZero, execRxLenOk, execRxLenOver,
      execRxPayMore, execRxPayLast, execRxCsum, execRxEofOk, execRxEofBad] at h
    obtain ⟨hr, hc, hk⟩ := receive_eq_next h
    simp only [Host.Outcome.next.injEq, Bool.and_eq_true, decide_eq_true_eq, bne_iff_ne] at hc hk
    exact ⟨hr, by simp_all only [and_self, ne_eq, not_false_eq_true]⟩

/-- Every next state of a branch: the block is as it was, and at most one frame was sent, at most one callback called. -/
theorem runBranch_eq_next {op : DispOp} {s t : State} (h : runBranch op s = .next t) :
    s.SameBlock t ∧ ∃ new, t.outputs = s.outputs ++ new ∧ new.countP Output.isFrameOut = 0 ∧
      new.countP Output.isSinkSend ≤ 1 ∧ new.countP Output.isCall ≤ 1 ∧ .call .getMode ∉ new ∧
      t.sinkAnswers = s.sinkAnswers.drop (new.countP Output.isSinkSend) ∧
      t.encoderAnswers = s.encoderAnswers.drop (new.countP Output.isQuery) := by
  cases op with
  | setMotorsBadLen | moveStepsBadLen =>
    obtain rfl : s = t := by simpa [runBranch, execDispSetMotorsBadLen, execDispMoveStepsBadLen] using h
    exact ⟨.refl s, [], by simp, by simp, by simp, by simp, by simp, by simp, by simp⟩
  | badCsum | ping | unknown =>
    obtain ⟨ho, hs, hk, hq⟩ := respond_eq_next h
    exact ⟨hs, _, ho, by simp [Output.isFrameOut], by simp [Output.isSinkSend], by simp [Output.isCall],
      by simp, by simp [hk, Output.isSinkSend], by simp [hq, Output.isQuery]⟩
  | setMotors a b | resetEncoders | moveSteps a b =>
    obtain ⟨ho, hs, hk, hq⟩ := respond_eq_next h
    refine ⟨(SameBlock_output s _).trans hs, _, by rw [ho, State.output_outputs, List.append_assoc], ?_, ?_, ?_, ?_, ?_, ?_⟩ <;>
      simp [Output.isFrameOut, Output.isSinkSend, Output.isCall, Output.isQuery, List.countP_cons, hk, hq]
  | getEncoders =>
    obtain ⟨hs', ho', hk', hq'⟩ := askEncoders_same (s.output (.call .getEncoders))
    obtain ⟨ho, hs, hk, hq⟩ := respond_eq_next (s := (askEncoders (s.output (.call .getEncoders))).2) h
    refine ⟨((SameBlock_output s _).trans hs').trans hs, _,
      by rw [ho, ho', State.output_outputs, List.append_assoc], ?_, ?_, ?_, ?_, ?_, ?_⟩ <;>
      simp [Output.isFrameOut, Output.isSinkSend, Output.isCall, Output.isQuery, List.countP_cons, hk, hk', hq, hq']

end Machine

end Sys2Proof
end

