-- ==== Sys2Proof/Laws/PerInstr.lean ====
section
/-! SUPPORT. What holds of every operation as syntax, one lemma for each constructor. -/

namespace Sys2Proof.Laws.WordFormat

/-- The encoding of an operation is a word of the format its row of the table has (30_encoding.md R90). -/
def Statement (i : Instr) : Prop := ∀ c : Config, (Sys2Proof.encode c i).format = i.format

theorem rxWaitSof : Statement .rxWaitSof := fun _ => rfl
theorem rxWaitSkip (b : Byte) : Statement (.rxWaitSkip b) := fun _ => rfl
theorem rxId (b : Byte) : Statement (.rxId b) := fun _ => rfl
theorem rxLenZero : Statement .rxLenZero := fun _ => rfl
theorem rxLenOk (b : Byte) : Statement (.rxLenOk b) := fun _ => rfl
theorem rxLenOver (b : Byte) : Statement (.rxLenOver b) := fun _ => rfl
theorem rxPayMore (b : Byte) : Statement (.rxPayMore b) := fun _ => rfl
theorem rxPayLast (b : Byte) : Statement (.rxPayLast b) := fun _ => rfl
theorem rxCsum (b : Byte) : Statement (.rxCsum b) := fun _ => rfl
theorem rxEofOk : Statement .rxEofOk := fun _ => rfl
theorem rxEofBad (b : Byte) : Statement (.rxEofBad b) := fun _ => rfl
theorem reset : Statement .reset := fun _ => rfl
theorem checksum (id length : Byte) (payload : List Byte) : Statement (.checksum id length payload) := fun _ => rfl
theorem encode (id : Byte) (payload : List Byte) : Statement (.encode id payload) := fun _ => rfl
theorem setMotors (speed1 speed2 : I16) : Statement (.setMotors speed1 speed2) := fun _ => rfl
theorem getEncoders : Statement .getEncoders := fun _ => rfl
theorem resetEncoders : Statement .resetEncoders := fun _ => rfl
theorem ping : Statement .ping := fun _ => rfl
theorem moveSteps (steps1 steps2 : I32) : Statement (.moveSteps steps1 steps2) := fun _ => rfl
theorem getMode : Statement .getMode := fun _ => rfl
theorem encoderData (val1 val2 : I32) : Statement (.encoderData val1 val2) := fun _ => rfl
theorem modeData (mode : Byte) : Statement (.modeData mode) := fun _ => rfl
theorem ack (commandId : Byte) : Statement (.ack commandId) := fun _ => rfl
theorem error (code : Byte) : Statement (.error code) := fun _ => rfl
theorem pong : Statement .pong := fun _ => rfl
theorem dispBadCsum : Statement .dispBadCsum := fun _ => rfl
theorem dispSetMotors (speed1 speed2 : I16) : Statement (.dispSetMotors speed1 speed2) := fun _ => rfl
theorem dispSetMotorsBadLen : Statement .dispSetMotorsBadLen := fun _ => rfl
theorem dispGetEncoders : Statement .dispGetEncoders := fun _ => rfl
theorem dispResetEncoders : Statement .dispResetEncoders := fun _ => rfl
theorem dispPing : Statement .dispPing := fun _ => rfl
theorem dispMoveSteps (steps1 steps2 : I32) : Statement (.dispMoveSteps steps1 steps2) := fun _ => rfl
theorem dispMoveStepsBadLen : Statement .dispMoveStepsBadLen := fun _ => rfl
theorem dispUnknown : Statement .dispUnknown := fun _ => rfl

end Sys2Proof.Laws.WordFormat
end

