-- ==== Sys2Proof/Tests/Slice0.lean ====
section
/-! SUPPORT. Tests: ill-formed operations, decoding of words written out from the spec's encodings, single steps of the
vectors of 95_test_vectors.md, the two questions the host asks, and for every statement with hypotheses a state that
meets them. Vector names (V1a, E3, D5, ...) are those of 95_test_vectors.md; T0 and T1 are its parameters. -/

namespace Sys2Proof.Tests

open Sys2Proof.Machine

/-! Small states. -/

/-- The state an outcome goes to. -/
def nextOf : Result → Option State
  | .next s => some s
  | .fault _ => none
  | .refused _ => none

/-- What an outcome shows outside. -/
def outputsOf (r : Result) : Option (List Output) := (nextOf r).map (·.outputs)

/-- What an outcome leaves in the context. -/
def rxOf (r : Result) : Option RxContext := (nextOf r).map (·.rx)

/-- After reset, with the parameters of T0, a sink that answers once and one answer of `get_encoders()` (D3). -/
def idle : State :=
  { State.resetWith Config.t0 with
    sinkAnswers := [.reports .success]
    encoderAnswers := [(BitVec.ofNat 32 0x12345678, BitVec.ofInt 32 (-2))] }

/-- `idle` in the middle of a frame. -/
def mid (st : RxState) (id len idx csum : Byte) (buf : Memory := []) : State :=
  { idle with rx := { state := st, id := id, len := len, idx := idx, csum := csum, buf := buf } }

/-- `idle` with a sink that never reports. -/
def hung : State := { idle with sinkAnswers := [.never] }

/-- `idle` with one pending input. -/
def pending (i : Input) : State := { idle with inbox := [i] }

/-- A payload of `n` bytes. -/
def zeros (n : Nat) : List Byte := List.replicate n 0

theorem zeros_length (n : Nat) : (zeros n).length = n := List.length_replicate

theorem idle_ready : idle.Ready := ⟨rfl, rfl⟩

theorem mid_ready (st : RxState) (id len idx csum : Byte) (buf : Memory) : (mid st id len idx csum buf).Ready :=
  ⟨rfl, rfl⟩

theorem idle_reports : idle.SinkReports := by unfold State.SinkReports; decide

theorem mid_reports (st : RxState) (id len idx csum : Byte) (buf : Memory) :
    (mid st id len idx csum buf).SinkReports := idle_reports

theorem hung_never : ¬ hung.SinkReports := fun h => h rfl

theorem t0_wf : Config.t0.Wf := by decide

theorem idle_inv : idle.Inv := ⟨t0_wf, idle_ready, by decide, by decide, nofun, nofun⟩

/-! Well-formedness: an operation whose operand breaks its row's condition is refused, for each condition. -/

theorem test_wf_skip_of_sof : Instr.wf Config.t0 (.rxWaitSkip 0xAA) = false := by decide
theorem test_wf_len_ok_zero : Instr.wf Config.t0 (.rxLenOk 0x00) = false := by decide
theorem test_wf_len_ok_255 : Instr.wf Config.t0 (.rxLenOk 0xFF) = false := by decide
theorem test_wf_len_over_254 : Instr.wf Config.t0 (.rxLenOver 0xFE) = false := by decide
theorem test_wf_eof_bad_of_eof : Instr.wf Config.t0 (.rxEofBad 0x55) = false := by decide
theorem test_wf_checksum_length : Instr.wf Config.t0 (.checksum 0x12 0x03 [0xFF]) = false := by decide
theorem test_wf_encode_255 : Instr.wf Config.t0 (.encode 0x42 (zeros 255)) = false := by
  simp only [Instr.wf, zeros_length]; decide
theorem test_wf_error_code : Instr.wf Config.t0 (.error 0x03) = false := by decide

/-! Decoding, the transitions (30_encoding.md R81, R82; vectors V1a to V6d): state code, byte, index, length. -/

theorem test_decode_wait :
    decode Config.t0 (.rxStep 0 0xAA 0 0) = .ok .rxWaitSof ∧
    decode Config.t0 (.rxStep 0 0x55 0 0) = .ok (.rxWaitSkip 0x55) ∧
    decode Config.t1 (.rxStep 0 0x3C 0 0) = .ok .rxWaitSof := by decide

theorem test_decode_id : decode Config.t0 (.rxStep 1 0xAA 0 0) = .ok (.rxId 0xAA) := by decide

theorem test_decode_length :
    decode Config.t0 (.rxStep 2 0x00 0 0) = .ok .rxLenZero ∧
    decode Config.t0 (.rxStep 2 0x01 0 0) = .ok (.rxLenOk 0x01) ∧
    decode Config.t0 (.rxStep 2 0xFE 0 0) = .ok (.rxLenOk 0xFE) ∧
    decode Config.t0 (.rxStep 2 0xFF 0 0) = .ok (.rxLenOver 0xFF) := by decide

theorem test_decode_payload :
    decode Config.t0 (.rxStep 3 0x55 0x01 0x04) = .ok (.rxPayMore 0x55) ∧
    decode Config.t0 (.rxStep 3 0xFF 0x03 0x04) = .ok (.rxPayLast 0xFF) ∧
    decode Config.t0 (.rxStep 3 0xEE 0xFD 0xFE) = .ok (.rxPayLast 0xEE) ∧
    decode Config.t0 (.rxStep 3 0xEE 0xFF 0xFE) = .error .noTransition := by decide

theorem test_decode_checksum : decode Config.t0 (.rxStep 4 0x55 0 0) = .ok (.rxCsum 0x55) := by decide

theorem test_decode_eof :
    decode Config.t0 (.rxStep 5 0x55 0 0) = .ok .rxEofOk ∧
    decode Config.t0 (.rxStep 5 0xAA 0 0) = .ok (.rxEofBad 0xAA) := by decide

theorem test_decode_illegal_state :
    decode Config.t0 (.rxStep 6 0xAA 0 0) = .error .illegalStateCode ∧
    decode Config.t0 (.rxStep 7 0xAA 0 0) = .error .illegalStateCode := by decide

/-! Decoding, the frames (R71, R77; vectors S2, D1 to D6, E2, E3, E8; the ModeData checksum 82 ^ 01 ^ 03 = 80 by hand). -/

theorem test_decode_commands :
    decode Config.t0 (.frame [0xAA, 0x01, 0x04, 0x64, 0x00, 0xCE, 0xFF, 0x50, 0x55]) =
      .ok (.setMotors (BitVec.ofInt 16 100) (BitVec.ofInt 16 (-50))) ∧
    decode Config.t0 (.frame [0xAA, 0x02, 0x00, 0x02, 0x55]) = .ok .getEncoders ∧
    decode Config.t0 (.frame [0xAA, 0x03, 0x00, 0x03, 0x55]) = .ok .resetEncoders ∧
    decode Config.t1 (.frame [0x3C, 0x04, 0x00, 0x04, 0x3E]) = .ok .ping ∧
    decode Config.t0 (.frame [0xAA, 0x05, 0x08, 0xE8, 0x03, 0x00, 0x00, 0x18, 0xFC, 0xFF, 0xFF, 0x02, 0x55]) =
      .ok (.moveSteps (BitVec.ofInt 32 1000) (BitVec.ofInt 32 (-1000))) ∧
    decode Config.t0 (.frame [0xAA, 0x06, 0x00, 0x06, 0x55]) = .ok .getMode := by decide

theorem test_decode_messages :
    decode Config.t0 (.frame [0xAA, 0x81, 0x08, 0x78, 0x56, 0x34, 0x12, 0xFE, 0xFF, 0xFF, 0xFF, 0x80, 0x55]) =
      .ok (.encoderData (BitVec.ofNat 32 0x12345678) (BitVec.ofInt 32 (-2))) ∧
    decode Config.t0 (.frame [0xAA, 0x82, 0x01, 0x03, 0x80, 0x55]) = .ok (.modeData 0x03) ∧
    decode Config.t0 (.frame [0xAA, 0x83, 0x01, 0x01, 0x83, 0x55]) = .ok (.ack 0x01) ∧
    decode Config.t0 (.frame [0xAA, 0x84, 0x01, 0x02, 0x87, 0x55]) = .ok (.error 0x02) ∧
    decode Config.t0 (.frame [0xAA, 0x85, 0x00, 0x85, 0x55]) = .ok .pong := by decide

theorem test_decode_big_endian :
    decode { Config.t0 with byteOrder := .big }
      (.frame [0xAA, 0x01, 0x04, 0x00, 0x64, 0xFF, 0xCE, 0x50, 0x55]) =
      .ok (.setMotors (BitVec.ofInt 16 100) (BitVec.ofInt 16 (-50))) := by decide

theorem test_decode_frame_rejects :
    decode Config.t0 (.frame [0x00, 0x04, 0x00, 0x04, 0x55]) = .error .notSof ∧
    decode Config.t0 (.frame [0xAA, 0x04, 0x00, 0x04, 0x00]) = .error .notEof ∧
    decode Config.t0 (.frame [0xAA, 0x14, 0x00, 0x04, 0x55]) = .error .wrongChecksum ∧
    decode Config.t0 (.frame [0xAA, 0x01, 0xFF]) = .error .illegalLength ∧
    decode Config.t0 (.frame [0xAA, 0x04, 0x00, 0x04]) = .error .wrongFrameSize ∧
    decode Config.t0 (.frame [0xAA, 0x04, 0x00, 0x04, 0x55, 0x00]) = .error .wrongFrameSize ∧
    decode Config.t0 (.frame [0xAA, 0x55, 0x00, 0x55, 0x55]) = .error .unknownId ∧
    decode Config.t0 (.frame [0xAA, 0x01, 0x03, 0x64, 0x00, 0xCE, 0xA8, 0x55]) = .error .wrongPayloadSize ∧
    decode Config.t0 (.frame [0xAA, 0x84, 0x01, 0x03, 0x86, 0x55]) = .error .unknownErrorCode := by decide

/-! Decoding, the dispatcher's branches (R161 to R169; vectors X3, D1 to D6, D9, X5, X6). -/

theorem test_decode_dispatch_gated :
    decode Config.t0 (.dispatch ⟨0x01, 4, [0x64, 0x00, 0xCE, 0xFF], 0x50, true⟩) =
      .ok (.dispSetMotors (BitVec.ofInt 16 100) (BitVec.ofInt 16 (-50))) ∧
    decode Config.t0 (.dispatch ⟨0x01, 3, [0x64, 0x00, 0xCE], 0xA8, true⟩) = .ok .dispSetMotorsBadLen ∧
    decode Config.t0 (.dispatch ⟨0x05, 8, [0xE8, 0x03, 0x00, 0x00, 0x18, 0xFC, 0xFF, 0xFF], 0x02, true⟩) =
      .ok (.dispMoveSteps (BitVec.ofInt 32 1000) (BitVec.ofInt 32 (-1000))) ∧
    decode Config.t0 (.dispatch ⟨0x05, 4, [0x01, 0x02, 0x03, 0x04], 0x05, true⟩) = .ok .dispMoveStepsBadLen := by
  decide

theorem test_decode_dispatch_ungated :
    decode Config.t0 (.dispatch ⟨0x14, 0, [], 0x04, false⟩) = .ok .dispBadCsum ∧
    decode Config.t0 (.dispatch ⟨0x02, 0, [], 0x02, true⟩) = .ok .dispGetEncoders ∧
    decode Config.t0 (.dispatch ⟨0x03, 0, [], 0x03, true⟩) = .ok .dispResetEncoders ∧
    decode Config.t0 (.dispatch ⟨0x04, 1, [0x00], 0x05, true⟩) = .ok .dispPing ∧
    decode Config.t0 (.dispatch ⟨0x06, 0, [], 0x06, true⟩) = .ok .dispUnknown := by decide

theorem test_decode_dispatch_unsized :
    decode Config.t0 (.dispatch ⟨0x01, 4, [0x64], 0x50, true⟩) = .error .unsizedFrameOut := by decide

/-! Decoding, the model's own operation codes (log entry 8). -/

theorem test_decode_coded :
    decode Config.t0 (.coded [13]) = .ok .reset ∧
    decode Config.t0 (.coded [12, 0xFF, 0x01, 0xFE]) = .ok (.checksum 0xFF 0x01 [0xFE]) ∧
    decode Config.t0 (.coded [11, 0x83, 0x01, 0x01]) = .ok (.encode 0x83 [0x01]) ∧
    decode Config.t0 (.coded [12, 0xFF, 0x01]) = .error .truncated ∧
    decode Config.t0 (.coded [34]) = .error .unknownOperation := by decide

/-! One step of each operation. -/

/-- V1a, V1b. -/
theorem test_wait :
    rxOf (rxByte 0xAA (mid .waitForSof 0 0 0 0)) = some ⟨.readId, 0, 0, 0, 0, []⟩ ∧
    rxOf (rxByte 0x00 (mid .waitForSof 4 0 0 4)) = some ⟨.waitForSof, 4, 0, 0, 4, []⟩ := by decide

/-- V2b. -/
theorem test_id : rxOf (rxByte 0xAA (mid .readId 0 0 0 0)) = some ⟨.readLength, 0xAA, 0, 0, 0, []⟩ := by decide

/-- V3a, V3c, V3d, V3e. -/
theorem test_length :
    rxOf (rxByte 0x00 (mid .readLength 4 9 7 0)) = some ⟨.readChecksum, 4, 0, 7, 0, []⟩ ∧
    rxOf (rxByte 0x01 (mid .readLength 1 9 7 0)) = some ⟨.readPayload, 1, 1, 0, 0, []⟩ ∧
    rxOf (rxByte 0xFE (mid .readLength 0x42 9 7 0)) = some ⟨.readPayload, 0x42, 0xFE, 0, 0, []⟩ ∧
    rxOf (rxByte 0xFF (mid .readLength 1 9 7 0)) = some ⟨.waitForSof, 1, 0xFF, 7, 0, []⟩ := by decide

/-- V4b, V4d, V4e. -/
theorem test_payload :
    rxOf (rxByte 0x55 (mid .readPayload 1 4 1 0 [(0, 0x64)])) =
      some ⟨.readPayload, 1, 4, 2, 0, [(0, 0x64), (1, 0x55)]⟩ ∧
    rxOf (rxByte 0xAA (mid .readPayload 1 1 0 0)) = some ⟨.readChecksum, 1, 1, 1, 0, [(0, 0xAA)]⟩ ∧
    rxOf (rxByte 0xEE (mid .readPayload 0x42 0xFE 0xFD 0)) =
      some ⟨.readChecksum, 0x42, 0xFE, 0xFE, 0, [(253, 0xEE)]⟩ := by decide

/-- V5b. -/
theorem test_checksum_byte :
    rxOf (rxByte 0x55 (mid .readChecksum 0x55 0 0 0)) = some ⟨.readEof, 0x55, 0, 0, 0x55, []⟩ := by decide

/-- V6b: the frame is handed out with its wrong checksum, and answered. -/
theorem test_eof_ok :
    let s := mid .readEof 1 4 4 0x51 [(0, 0x64), (1, 0x00), (2, 0xCE), (3, 0xFF)]
    outputsOf (rxByte 0x55 s) =
      some [.frameOut ⟨1, 4, [0x64, 0x00, 0xCE, 0xFF], 0x51, false⟩,
        .sinkSend [0xAA, 0x84, 0x01, 0x01, 0x84, 0x55]] ∧
    rxOf (rxByte 0x55 s) = some { s.rx with state := .waitForSof } := by decide

/-- V6d. -/
theorem test_eof_bad :
    outputsOf (rxByte 0xAA (mid .readEof 4 1 1 0x55)) = some [] ∧
    rxOf (rxByte 0xAA (mid .readEof 4 1 1 0x55)) = some ⟨.waitForSof, 4, 1, 1, 0x55, []⟩ := by decide

/-- A row whose condition does not hold (log entry 11). -/
theorem test_not_selected : exec .rxEofOk idle = .refused .notSelected := rfl

/-- Z1: what stands in the other registers afterwards is free. -/
theorem test_reset : (rxOf (exec .reset (mid .readPayload 5 8 3 0 [(0, 1)]))).map (fun rx => (rx.state, rx.buf)) =
    some (.waitForSof, []) := rfl

/-- K4, K5, K6. -/
theorem test_checksum :
    outputsOf (exec (.checksum 0xFF 0x01 [0xFE]) idle) = some [.checksumResult 0x00] ∧
    outputsOf (exec (.checksum 0x01 0x04 [0x64, 0x00, 0xCE, 0xFF]) idle) = some [.checksumResult 0x50] ∧
    outputsOf (exec (.checksum 0x12 0x03 [0xFF, 0xFF, 0xFF]) idle) = some [.checksumResult 0xEE] := by decide

/-- E4, E1. -/
theorem test_encode :
    outputsOf (exec (.encode 0x01 [0xAA, 0x55, 0x55, 0xAA]) idle) =
      some [.sinkSend [0xAA, 0x01, 0x04, 0xAA, 0x55, 0x55, 0xAA, 0x05, 0x55], .encodeStatus .success] ∧
    outputsOf (exec (.encode 0x04 []) idle) =
      some [.sinkSend [0xAA, 0x04, 0x00, 0x04, 0x55], .encodeStatus .success] := by decide

/-- D2. -/
theorem test_set_motors : outputsOf (exec (.setMotors (BitVec.ofInt 16 100) (BitVec.ofInt 16 (-50))) idle) =
    some [.frameOut ⟨0x01, 4, [0x64, 0x00, 0xCE, 0xFF], 0x50, true⟩,
      .call (.setMotors (BitVec.ofInt 16 100) (BitVec.ofInt 16 (-50))),
      .sinkSend [0xAA, 0x83, 0x01, 0x01, 0x83, 0x55]] := by decide

/-- D3. -/
theorem test_get_encoders : outputsOf (exec .getEncoders idle) =
    some [.frameOut ⟨0x02, 0, [], 0x02, true⟩, .call .getEncoders,
      .sinkSend [0xAA, 0x81, 0x08, 0x78, 0x56, 0x34, 0x12, 0xFE, 0xFF, 0xFF, 0xFF, 0x80, 0x55]] := by decide

/-- D4. -/
theorem test_reset_encoders : outputsOf (exec .resetEncoders idle) =
    some [.frameOut ⟨0x03, 0, [], 0x03, true⟩, .call .resetEncoders,
      .sinkSend [0xAA, 0x83, 0x01, 0x03, 0x81, 0x55]] := by decide

/-- D1, S1. -/
theorem test_ping :
    outputsOf (exec .ping idle) =
      some [.frameOut ⟨0x04, 0, [], 0x04, true⟩, .sinkSend [0xAA, 0x85, 0x00, 0x85, 0x55]] ∧
    outputsOf (exec .ping { idle with cfg := Config.t1 }) =
      some [.frameOut ⟨0x04, 0, [], 0x04, true⟩, .sinkSend [0x3C, 0x85, 0x00, 0x85, 0x3E]] := by decide

/-- D5. -/
theorem test_move_steps : outputsOf (exec (.moveSteps (BitVec.ofInt 32 1000) (BitVec.ofInt 32 (-1000))) idle) =
    some [.frameOut ⟨0x05, 8, [0xE8, 0x03, 0x00, 0x00, 0x18, 0xFC, 0xFF, 0xFF], 0x02, true⟩,
      .call (.moveSteps (BitVec.ofInt 32 1000) (BitVec.ofInt 32 (-1000))),
      .sinkSend [0xAA, 0x83, 0x01, 0x05, 0x87, 0x55]] := by decide

/-- D6. -/
theorem test_get_mode : outputsOf (exec .getMode idle) =
    some [.frameOut ⟨0x06, 0, [], 0x06, true⟩, .sinkSend [0xAA, 0x84, 0x01, 0x02, 0x87, 0x55]] := by decide

/-- E8, E3, E2; the Error frame of D6; ModeData as above. -/
theorem test_messages :
    outputsOf (exec (.encoderData (BitVec.ofNat 32 0x12345678) (BitVec.ofInt 32 (-2))) idle) =
      some [.sinkSend [0xAA, 0x81, 0x08, 0x78, 0x56, 0x34, 0x12, 0xFE, 0xFF, 0xFF, 0xFF, 0x80, 0x55],
        .encodeStatus .success] ∧
    outputsOf (exec (.ack 0x01) idle) =
      some [.sinkSend [0xAA, 0x83, 0x01, 0x01, 0x83, 0x55], .encodeStatus .success] ∧
    outputsOf (exec .pong idle) = some [.sinkSend [0xAA, 0x85, 0x00, 0x85, 0x55], .encodeStatus .success] ∧
    outputsOf (exec (.error 0x02) idle) =
      some [.sinkSend [0xAA, 0x84, 0x01, 0x02, 0x87, 0x55], .encodeStatus .success] ∧
    outputsOf (exec (.modeData 0x03) idle) =
      some [.sinkSend [0xAA, 0x82, 0x01, 0x03, 0x80, 0x55], .encodeStatus .success] := by decide

/-- X5, X6, D7: a wrong length is silent, an unknown id is answered. -/
theorem test_dispatch_shapes :
    outputsOf (dispatch ⟨0x01, 3, [0x64, 0x00, 0xCE], 0xA8, true⟩ idle) = some [] ∧
    outputsOf (dispatch ⟨0x05, 4, [0x01, 0x02, 0x03, 0x04], 0x05, true⟩ idle) = some [] ∧
    outputsOf (dispatch ⟨0x85, 0, [], 0x85, true⟩ idle) = some [.sinkSend [0xAA, 0x84, 0x01, 0x02, 0x87, 0x55]] := by
  decide

/-! The host's two questions, and the canonical form at reset. -/

theorem test_table_word_pong : decodeTableWord 8 0 = some .pong := by decide

theorem test_fetch_word_runs : ∃ t, step (State.reset.withFetchWord 8 0) = .next t := ⟨_, rfl⟩

/-- A transition row, placed by its code after reset, is selected and runs. -/
theorem test_fetch_word_transition : ∃ t, step (State.reset.withFetchWord 8 20) = .next t := ⟨_, rfl⟩

theorem test_reset_memory_wf : State.reset.rx.buf.wf = true := rfl

/-! Witnesses: for every statement with hypotheses, in the order of the statements, a concrete state and operands that
meet all of them, clause by clause and at the boundaries of each range. -/

/-- Room for one byte, at both ends of the length's range. -/
theorem witness_DecodeSelectsExactlyOneTransition :
    (0x00 : Byte).toNat < (0x01 : Byte).toNat ∧ (0xFD : Byte).toNat < (0xFE : Byte).toNat := by decide

theorem witness_DelimitersTestedInOneStateEach :
    (RxState.waitForSof = .waitForSof ∧ Config.t0.sof = { Config.t0 with eof := 0x3E }.sof) ∧
    (RxState.readEof = .readEof ∧ Config.t0.eof = { Config.t0 with sof := 0x3C }.eof) ∧
    ((mid .readId 0 0 0 0).rx.state ≠ .waitForSof ∧ (mid .readId 0 0 0 0).rx.state ≠ .readEof ∧
      ∃ t, rxByte 0xAA (mid .readId 0 0 0 0) = .next t) ∧
    (∃ t, rxByte 0xAA (mid .readPayload 1 1 0 0) = .next t) ∧
    (∃ t, rxByte 0xAA (mid .readEof 4 0 0 4) = .next t) :=
  ⟨⟨rfl, rfl⟩, ⟨rfl, rfl⟩, ⟨by decide, by decide, _, rfl⟩, ⟨_, rfl⟩, ⟨_, rfl⟩⟩

theorem witness_DecodeOfEncodeIsTheOperation :
    Config.t0.Wf ∧ Config.t1.Wf ∧
    Instr.wf Config.t0 (.rxWaitSkip 0x55) = true ∧ Instr.wf Config.t0 (.rxLenOk 0x01) = true ∧
    Instr.wf Config.t0 (.rxLenOk 0xFE) = true ∧ Instr.wf Config.t0 (.rxLenOver 0xFF) = true ∧
    Instr.wf Config.t0 (.rxEofBad 0xAA) = true ∧ Instr.wf Config.t0 (.checksum 0x04 0x00 []) = true ∧
    Instr.wf Config.t0 (.encode 0x04 []) = true ∧ Instr.wf Config.t0 (.error 0x01) = true ∧
    Instr.wf Config.t0 (.error 0x02) = true ∧ Instr.wf Config.t0 .dispUnknown = true := by decide

theorem witness_DecodeOfEncodeIsTheOperation_longest :
    Instr.wf Config.t0 (.encode 0x42 (zeros 254)) = true ∧
    Instr.wf Config.t0 (.checksum 0x42 0xFF (zeros 255)) = true := by
  simp only [Instr.wf, zeros_length]; decide

theorem witness_ChecksumReturnsTheFold :
    ([] : List Byte).length = (0x00 : Byte).toNat ∧ (zeros 255).length = (0xFF : Byte).toNat := by
  simp only [zeros_length]; decide

theorem witness_ChecksumRefusesMismatchedLength :
    ([] : List Byte).length ≠ (0x01 : Byte).toNat ∧ (zeros 256).length ≠ (0x00 : Byte).toNat := by
  simp only [zeros_length]; decide

theorem witness_ChecksumIsBitwiseAndOrderFree :
    List.Perm [0x64, 0x00, 0xCE, 0xFF] ([0xFF, 0xCE, 0x00, 0x64] : List Byte) := by decide

theorem witness_ChecksumDetectsOneChangedByte :
    csumOk 0x04 0x00 [] 0x04 = true ∧ (0x04 : Byte) ≠ 0x14 ∧
    csumOk 0x01 0x04 ([0x64, 0x00, 0xCE] ++ 0xFF :: []) 0x50 = true ∧ (0xFF : Byte) ≠ 0xFE ∧ (0x50 : Byte) ≠ 0x51 := by
  decide

theorem witness_RxWaitSofMovesToReadId : idle.Ready ∧ idle.rx.state = .waitForSof := ⟨idle_ready, rfl⟩

theorem witness_RxWaitSkipLeavesTheContext :
    idle.Ready ∧ idle.rx.state = .waitForSof ∧ (0x55 : Byte) ≠ idle.cfg.sof := ⟨idle_ready, rfl, by decide⟩

theorem witness_RxIdStoresTheId : (mid .readId 0 0 0 0).Ready ∧ (mid .readId 0 0 0 0).rx.state = .readId :=
  ⟨mid_ready .., rfl⟩

/-- For the three `ReadLength` statements. -/
theorem witness_RxLenStatements :
    (mid .readLength 1 0 0 0).Ready ∧ (mid .readLength 1 0 0 0).rx.state = .readLength ∧
    1 ≤ (0x01 : Byte).toNat ∧ (0xFE : Byte).toNat ≤ 254 := ⟨mid_ready .., rfl, by decide, by decide⟩

theorem witness_RxPayMoreAppendsTheByte :
    (let s := mid .readPayload 1 2 0 0
     s.Ready ∧ s.rx.state = .readPayload ∧ s.rx.idx.toNat + 1 < s.rx.len.toNat) ∧
    (let s := mid .readPayload 1 0xFE 0xFC 0
     s.Ready ∧ s.rx.state = .readPayload ∧ s.rx.idx.toNat + 1 < s.rx.len.toNat) :=
  ⟨⟨⟨rfl, rfl⟩, rfl, by decide⟩, ⟨⟨rfl, rfl⟩, rfl, by decide⟩⟩

theorem witness_RxPayLastEndsThePayload :
    (let s := mid .readPayload 1 1 0 0
     s.Ready ∧ s.rx.state = .readPayload ∧ s.rx.idx.toNat + 1 = s.rx.len.toNat) ∧
    (let s := mid .readPayload 1 0xFE 0xFD 0
     s.Ready ∧ s.rx.state = .readPayload ∧ s.rx.idx.toNat + 1 = s.rx.len.toNat) :=
  ⟨⟨⟨rfl, rfl⟩, rfl, by decide⟩, ⟨⟨rfl, rfl⟩, rfl, by decide⟩⟩

theorem witness_RxCsumStoresTheChecksum :
    (mid .readChecksum 4 0 0 0).Ready ∧ (mid .readChecksum 4 0 0 0).rx.state = .readChecksum := ⟨mid_ready .., rfl⟩

/-- A payload of one byte, held by the buffer. -/
theorem holds_one (b : Byte) : Memory.Holds [(0, b)] [b] := by
  intro k h
  obtain rfl : k = 0 := by simpa using h
  rfl

/-- A Ping without payload and one with a payload byte (D9), the sink reporting; a SetMotors of length 0, dropped under a
sink that never reports. -/
theorem witness_RxEofOkHandsOutTheFrame :
    (let s := mid .readEof 4 0 0 4
     s.Ready ∧ s.rx.state = .readEof ∧ ([] : List Byte).length = s.rx.len.toNat ∧ s.rx.buf.Holds [] ∧
      s.SinkReports) ∧
    (let s := mid .readEof 4 1 1 5 [(0, 0x00)]
     s.Ready ∧ s.rx.state = .readEof ∧ ([0x00] : List Byte).length = s.rx.len.toNat ∧ s.rx.buf.Holds [0x00] ∧
      s.SinkReports) ∧
    (let s : State := { mid .readEof 1 0 0 1 with sinkAnswers := [.never] }
     s.Ready ∧ s.rx.state = .readEof ∧ ([] : List Byte).length = s.rx.len.toNat ∧ s.rx.buf.Holds [] ∧ s.cfg.Wf ∧
      silentlyDropped s.cfg ⟨1, 0, [], 1, checksum 1 0 [] == 1⟩) :=
  ⟨⟨⟨rfl, rfl⟩, rfl, rfl, nofun, idle_reports⟩, ⟨⟨rfl, rfl⟩, rfl, rfl, holds_one _, idle_reports⟩,
    ⟨⟨rfl, rfl⟩, rfl, rfl, nofun, t0_wf, by unfold silentlyDropped; decide⟩⟩

/-- D9: a Ping with one payload byte, through the receiver. -/
theorem test_ping_with_payload : outputsOf (feed [0xAA, 0x04, 0x01, 0x00, 0x05, 0x55] idle) =
    some [.frameOut ⟨0x04, 1, [0x00], 0x05, true⟩, .sinkSend [0xAA, 0x85, 0x00, 0x85, 0x55]] := by decide

theorem witness_RxEofBadDiscardsTheFrame :
    (mid .readEof 4 0 0 4).Ready ∧ (mid .readEof 4 0 0 4).rx.state = .readEof ∧
    (0xAA : Byte) ≠ (mid .readEof 4 0 0 4).cfg.eof := ⟨mid_ready .., rfl, by decide⟩

theorem witness_BytesBeforeSofAreIgnored :
    idle.Ready ∧ idle.rx.state = .waitForSof ∧ (∀ b ∈ [0x00, 0x55, 0x13], b ≠ idle.cfg.sof) :=
  ⟨idle_ready, rfl, by decide⟩

theorem witness_StaleRegistersAreNeverRead :
    idle.rx.state = .waitForSof ∧ (mid .waitForSof 1 255 7 9 [(0, 3)]).rx.state = .waitForSof ∧
    ∃ t, feed [0xAA, 0x04, 0x00, 0x04, 0x55] idle = .next t := ⟨rfl, rfl, _, rfl⟩

/-- For the two statements of totality. -/
theorem witness_TotalityStatements : idle.Inv ∧ idle.SinkReports ∧ .never ∉ idle.sinkAnswers :=
  ⟨idle_inv, idle_reports, by decide⟩

/-- A byte that completes no frame, and one that completes one. -/
theorem witness_OneFrameInAtMostOneFrameOut :
    (∃ t, rxByte 0x00 idle = .next t) ∧ ∃ t, rxByte 0x55 (mid .readEof 4 0 0 4) = .next t := ⟨⟨_, rfl⟩, ⟨_, rfl⟩⟩

theorem witness_DecodeOfEncodedFrameIsExact :
    idle.Ready ∧ idle.SinkReports ∧ idle.rx.state = .waitForSof ∧
    ([] : List Byte).length ≤ 254 ∧ (zeros 254).length ≤ 254 :=
  ⟨idle_ready, idle_reports, rfl, by decide, (zeros_length 254).le⟩

/-- For `Encode` and for the message frames. -/
theorem witness_EncodeSendsTheFrame :
    (zeros 254).length ≤ 254 ∧ idle.txBusy = false ∧ idle.SinkReports :=
  ⟨(zeros_length 254).le, rfl, idle_reports⟩

theorem witness_EncodeRefusesLongPayloads : 255 ≤ (zeros 255).length := (zeros_length 255).ge

/-- In `ReadEof`, with the frame of `payload` received, a sink that never reports. -/
def stalling (id len csum : Byte) (buf : Memory) : State :=
  { mid .readEof id len 0 csum buf with sinkAnswers := [.never] }

/-- `Encode`, and the `EOF` of: a bad checksum on a MoveSteps of the wrong length, a SetMotors of length 4 (S2), a Ping,
and an unknown id. -/
theorem witness_SinkThatNeverReportsStalls :
    (hung.txBusy = false ∧ ¬ hung.SinkReports ∧ (zeros 254).length ≤ 254) ∧
    (let s := stalling 0x05 0 0x04 []
     s.Ready ∧ ¬ s.SinkReports ∧ s.rx.state = .readEof ∧ ([] : List Byte).length = s.rx.len.toNat ∧
      s.rx.buf.Holds [] ∧ ¬ silentlyDropped s.cfg (frameOutOf s.rx [])) ∧
    (let s := stalling 0x01 4 0x50 [(0, 0x64), (1, 0x00), (2, 0xCE), (3, 0xFF)]
     s.Ready ∧ ¬ s.SinkReports ∧ s.rx.state = .readEof ∧
      ([0x64, 0x00, 0xCE, 0xFF] : List Byte).length = s.rx.len.toNat ∧ s.rx.buf.Holds [0x64, 0x00, 0xCE, 0xFF] ∧
      ¬ silentlyDropped s.cfg (frameOutOf s.rx [0x64, 0x00, 0xCE, 0xFF])) ∧
    (let s := stalling 0x04 0 0x04 []
     ¬ silentlyDropped s.cfg (frameOutOf s.rx [])) ∧
    (let s := stalling 0x06 0 0x06 []
     ¬ silentlyDropped s.cfg (frameOutOf s.rx [])) := by
  unfold silentlyDropped
  exact ⟨⟨rfl, hung_never, (zeros_length 254).le⟩, ⟨⟨rfl, rfl⟩, hung_never, rfl, rfl, nofun, by decide⟩,
    ⟨⟨rfl, rfl⟩, hung_never, rfl, rfl, by unfold Memory.Holds; decide, by decide⟩, by decide, by decide⟩

theorem witness_BusyEncoderRefuses : { idle with txBusy := true }.txBusy = true ∧ ([] : List Byte).length ≤ 254 := by
  decide

theorem witness_BadChecksumIsAnsweredWithError :
    idle.txBusy = false ∧ idle.SinkReports ∧ (⟨0x14, 0, [], 0x04, false⟩ : FrameOut).csumOk = false :=
  ⟨rfl, idle_reports, rfl⟩

/-- Length 4 with its bytes, and the lengths on either side of it. -/
theorem witness_SetMotorsCallsThenAcks :
    (let f := goodFrameOut 0x01 [0x64, 0x00, 0xCE, 0xFF]
     f.csumOk = true ∧ f.id = idle.cfg.cmdSetMotors ∧ idle.txBusy = false ∧ idle.SinkReports ∧ f.len = 4 ∧
      f.payload = [0x64, 0x00, 0xCE, 0xFF]) ∧
    (let f := goodFrameOut 0x01 [0x64, 0x00, 0xCE]
     f.csumOk = true ∧ f.id = idle.cfg.cmdSetMotors ∧ f.len ≠ 4) ∧
    (goodFrameOut 0x01 [0x64, 0x00, 0xCE, 0xFF, 0x00]).len ≠ 4 :=
  ⟨⟨rfl, rfl, rfl, idle_reports, rfl, rfl⟩, ⟨rfl, rfl, by decide⟩, by decide⟩

theorem witness_GetEncodersQueriesThenReports :
    idle.cfg.Wf ∧ idle.txBusy = false ∧ idle.SinkReports ∧ (goodFrameOut 0x02 []).csumOk = true ∧
    (goodFrameOut 0x02 []).id = idle.cfg.cmdGetEncoders := ⟨t0_wf, rfl, idle_reports, rfl, rfl⟩

theorem witness_ResetEncodersCallsThenAcks :
    idle.cfg.Wf ∧ idle.txBusy = false ∧ idle.SinkReports ∧ (goodFrameOut 0x03 [0x07]).csumOk = true ∧
    (goodFrameOut 0x03 [0x07]).id = idle.cfg.cmdResetEncoders := ⟨t0_wf, rfl, idle_reports, rfl, rfl⟩

theorem witness_PingIsAnsweredWithPong :
    idle.cfg.Wf ∧ idle.txBusy = false ∧ idle.SinkReports ∧ (goodFrameOut 0x04 [0x00]).csumOk = true ∧
    (goodFrameOut 0x04 [0x00]).id = 0x04 := ⟨t0_wf, rfl, idle_reports, rfl, rfl⟩

/-- Length 8 with its bytes, and the lengths on either side of it. -/
theorem witness_MoveStepsCallsThenAcks :
    (let f := goodFrameOut 0x05 [0xE8, 0x03, 0x00, 0x00, 0x18, 0xFC, 0xFF, 0xFF]
     idle.cfg.Wf ∧ f.csumOk = true ∧ f.id = idle.cfg.cmdMoveSteps ∧ idle.txBusy = false ∧ idle.SinkReports ∧
      f.len = 8 ∧ f.payload = [0xE8, 0x03, 0x00, 0x00, 0x18, 0xFC, 0xFF, 0xFF]) ∧
    (let f := goodFrameOut 0x05 [0x01, 0x02, 0x03, 0x04, 0x05, 0x06, 0x07]
     f.csumOk = true ∧ f.id = idle.cfg.cmdMoveSteps ∧ f.len ≠ 8) ∧
    (goodFrameOut 0x05 [0x01, 0x02, 0x03, 0x04, 0x05, 0x06, 0x07, 0x08, 0x09]).len ≠ 8 :=
  ⟨⟨t0_wf, rfl, rfl, rfl, idle_reports, rfl, rfl⟩, ⟨rfl, rfl, by decide⟩, by decide⟩

/-- The mode query, a Pong, and the least and greatest id. -/
theorem witness_AnyOtherIdIsAnsweredWithError :
    idle.txBusy = false ∧ idle.SinkReports ∧ (goodFrameOut 0x06 []).csumOk = true ∧
    ∀ id ∈ [0x06, 0x85, 0x00, 0xFF], (goodFrameOut id []).id ∉
      [idle.cfg.cmdSetMotors, idle.cfg.cmdGetEncoders, idle.cfg.cmdResetEncoders, 0x04, idle.cfg.cmdMoveSteps] :=
  ⟨rfl, idle_reports, rfl, by decide⟩

theorem witness_GetModeIsNeverCalled :
    let s := { idle with outputs := [.call .getMode] }
    ∃ t, exec .rxWaitSof s = .next t ∧ .call .getMode ∈ t.outputs := ⟨_, rfl, by decide⟩

/-- For the command frames, whole, and for the oversized length. -/
theorem witness_FrameStatements :
    idle.cfg.Wf ∧ idle.Ready ∧ idle.SinkReports ∧ idle.rx.state = .waitForSof :=
  ⟨t0_wf, idle_ready, idle_reports, rfl⟩

theorem witness_MalformedTerminatorIsSilent :
    idle.Ready ∧ idle.rx.state = .waitForSof ∧ ([] : List Byte).length ≤ 254 ∧ (zeros 254).length ≤ 254 ∧
    (0xAA : Byte) ≠ idle.cfg.eof := ⟨idle_ready, rfl, by decide, (zeros_length 254).le, by decide⟩

theorem witness_ChecksumMismatchIsAnswered :
    idle.Ready ∧ idle.SinkReports ∧ idle.rx.state = .waitForSof ∧ ([] : List Byte).length ≤ 254 ∧
    (0x04 : Byte) ≠ checksum 0x14 (BitVec.ofNat 8 ([] : List Byte).length) [] :=
  ⟨idle_ready, idle_reports, rfl, by decide, by decide⟩

theorem witness_UnknownCommandIsAnswered :
    idle.Ready ∧ idle.SinkReports ∧ idle.rx.state = .waitForSof ∧ (zeros 254).length ≤ 254 ∧
    (0x06 : Byte) ∉
      [idle.cfg.cmdSetMotors, idle.cfg.cmdGetEncoders, idle.cfg.cmdResetEncoders, 0x04, idle.cfg.cmdMoveSteps] :=
  ⟨idle_ready, idle_reports, rfl, (zeros_length 254).le, by decide⟩

theorem witness_PayloadSizeMismatchIsSilent :
    (idle.cfg.Wf ∧ idle.Ready ∧ idle.rx.state = .waitForSof) ∧
    (([0x64, 0x00, 0xCE] : List Byte).length ≤ 254 ∧ (0x01 : Byte) = idle.cfg.cmdSetMotors ∧
      ([0x64, 0x00, 0xCE] : List Byte).length ≠ 4) ∧
    (([0x01, 0x02, 0x03, 0x04] : List Byte).length ≤ 254 ∧ (0x05 : Byte) = idle.cfg.cmdMoveSteps ∧
      ([0x01, 0x02, 0x03, 0x04] : List Byte).length ≠ 8) :=
  ⟨⟨t0_wf, idle_ready, rfl⟩, by decide, by decide⟩

theorem witness_RxByteBeforeResetIsRefused : { idle with wasReset := false }.wasReset = false := rfl

theorem witness_ParametersNeverChange : ∃ t, step (pending (.rxByte 0xAA)) = .next t := ⟨_, rfl⟩

theorem witness_OnlyTheReceiverWritesTheContext :
    (∃ t, exec .dispPing idle = .next t) ∧ (∃ t, exec (.checksum 0x04 0x00 []) idle = .next t) ∧
    (∃ t, exec (.encode 0x04 []) idle = .next t) ∧ (∃ t, exec (.encoderData 0 0) idle = .next t) ∧
    (∃ t, exec (.modeData 0x03) idle = .next t) ∧ (∃ t, exec (.ack 0x01) idle = .next t) ∧
    (∃ t, exec (.error 0x01) idle = .next t) ∧ (∃ t, exec .pong idle = .next t) :=
  ⟨⟨_, rfl⟩, ⟨_, rfl⟩, ⟨_, rfl⟩, ⟨_, rfl⟩, ⟨_, rfl⟩, ⟨_, rfl⟩, ⟨_, rfl⟩, ⟨_, rfl⟩⟩

theorem witness_EveryStepKeepsTheContextInvariant :
    (pending (.rxByte 0xAA)).Inv ∧ (pending (.rxByte 0xAA)).Received [] ∧ ∃ t, step (pending (.rxByte 0xAA)) = .next t :=
  ⟨⟨t0_wf, ⟨rfl, rfl⟩, by decide, by decide, nofun, nofun⟩, trivial, _, rfl⟩

/-- What the bytes so far say of the context, in the middle of the payload and after the checksum. -/
theorem witness_EveryStepKeepsTheContextInvariant_received :
    (mid .readId 0 0 0 0).Received [0x13, 0xAA] ∧
    (mid .readLength 1 0 0 0).Received [0x13, 0xAA, 0x01] ∧
    (mid .readPayload 1 4 1 0 [(0, 0x64)]).Received [0x13, 0xAA, 0x01, 0x04, 0x64] ∧
    (mid .readChecksum 1 1 1 0 [(0, 0x64)]).Received [0x13, 0xAA, 0x01, 0x01, 0x64] ∧
    (mid .readEof 4 0 0 4).Received [0x13, 0xAA, 0x04, 0x00, 0x04] :=
  ⟨⟨[0x13], rfl⟩, ⟨[0x13], rfl⟩, ⟨[0x64], rfl, holds_one _, [0x13], rfl⟩, ⟨[0x64], rfl, holds_one _, [0x13], rfl⟩,
    ⟨[], rfl, nofun, [0x13], rfl⟩⟩

/-- The bytes a step takes: an inbound byte, a whole command frame (S1), none for `ENCODE`. -/
theorem test_takes :
    (pending (.rxByte 0xAA)).takes = [0xAA] ∧
    (pending (.word (.coded [7]))).takes = [0xAA, 0x04, 0x00, 0x04, 0x55] ∧
    (pending (.word (.coded [11, 0x04, 0x00]))).takes = [] := by decide

theorem witness_ResetMeetsTheContextInvariant : Config.t0.Wf ∧ Config.t1.Wf := by decide

theorem witness_OnlyAHangingSinkStopsTheBlock :
    let s := { hung with inbox := [.word (.frame [0xAA, 0x85, 0x00, 0x85, 0x55])] }
    s.Inv ∧ step s = .fault .sinkNeverReports :=
  ⟨⟨t0_wf, ⟨rfl, rfl⟩, by decide, by decide, nofun, nofun⟩, rfl⟩

theorem witness_StepRunsTheDecodedOperation :
    decode Config.t0 ((pending (.word (.frame [0xAA, 0x85, 0x00, 0x85, 0x55]))).wordOf
      (.word (.frame [0xAA, 0x85, 0x00, 0x85, 0x55]))) = .ok .pong ∧
    (pending (.rxByte 0xAA)).inbox = [.rxByte 0xAA] ∧
    decode Config.t0 ((pending (.word (.coded [34]))).wordOf (.word (.coded [34]))) = .error .unknownOperation := by
  decide

theorem witness_MachineWaitsForInput : idle.inbox = [] := rfl

end Sys2Proof.Tests
end

/-! The step by the decoder's answer (00_scope.md R17, 20_memory.md R61). -/

namespace Sys2Proof.Machine

theorem fetch_of_decode_ok {s : State} {input : Input} {rest : List Input} {i : Instr}
    (hin : s.inbox = input :: rest) (hd : decode s.cfg (s.wordOf input) = .ok i) :
    fetch s = .run i (s.setInbox rest) := by
  simp [fetch, hin, hd]

theorem fetch_of_decode_error {s : State} {input : Input} {rest : List Input} {e : DecodeError}
    (hin : s.inbox = input :: rest) (hd : decode s.cfg (s.wordOf input) = .error e) :
    fetch s = .rejected e := by
  simp [fetch, hin, hd]

theorem step_of_decode_ok {s : State} {input : Input} {rest : List Input} {i : Instr}
    (hin : s.inbox = input :: rest) (hd : decode s.cfg (s.wordOf input) = .ok i) :
    step s = exec i (s.setInbox rest) := by
  simp [step, fetch_of_decode_ok hin hd]

theorem step_of_decode_error {s : State} {input : Input} {rest : List Input} {e : DecodeError}
    (hin : s.inbox = input :: rest) (hd : decode s.cfg (s.wordOf input) = .error e) :
    step s = .refused (.undecodable e) := by
  simp [step, fetch_of_decode_error hin hd]

/-- An inbound byte's word is decoded by the decode table, read at the registers of the receiver (R82, R110). -/
theorem decode_wordOf_rxByte (s : State) (b : Byte) :
    decode s.cfg (s.wordOf (.rxByte b)) =
      (decodeRx s.cfg s.rx.state b s.rx.idx s.rx.len).map (RxOp.instr b) :=
  decode_rxStep ..

/-- A byte for which the decode table has no transition. -/
theorem rxByte_of_decode_error {s : State} {b : Byte} {e : DecodeError}
    (h : decodeRx s.cfg s.rx.state b s.rx.idx s.rx.len = .error e) :
    rxByte b s = .refused (.undecodable e) := by
  simp [rxByte, h]

/-- A pending inbound byte is the receiver's: whichever row the decode table selects, or rejects, `RxByte` answers the
same, since taking the input changes no register the table reads. -/
theorem step_of_inbox_rxByte {s : State} {b : Byte} {rest : List Input} (hin : s.inbox = .rxByte b :: rest) :
    step s = rxByte b (s.setInbox rest) := by
  cases hrx : decodeRx s.cfg s.rx.state b s.rx.idx s.rx.len with
  | ok op =>
    have hd : decode s.cfg (s.wordOf (.rxByte b)) = .ok (op.instr b) := by
      rw [decode_wordOf_rxByte, hrx]; rfl
    calc step s = exec (op.instr b) (s.setInbox rest) := step_of_decode_ok hin hd
      _ = runTransition op b (s.setInbox rest) := exec_rxInstr ..
      _ = rxByte b (s.setInbox rest) := (rxByte_of_decode (s := s.setInbox rest) hrx).symm
  | error e =>
    have hd : decode s.cfg (s.wordOf (.rxByte b)) = .error e := by
      rw [decode_wordOf_rxByte, hrx]; rfl
    calc step s = .refused (.undecodable e) := step_of_decode_error hin hd
      _ = rxByte b (s.setInbox rest) := (rxByte_of_decode_error (s := s.setInbox rest) hrx).symm

/-- Settles O59: the decoder's two answers are the step's two equations, and the inbound byte is the case of the decode
table. -/
theorem stepRunsTheDecodedOperation : Obligations.StepRunsTheDecodedOperation :=
  ⟨fun _ _ _ _ => step_of_decode_ok, fun _ _ _ => step_of_inbox_rxByte, fun _ _ _ _ => step_of_decode_error⟩

end Sys2Proof.Machine

/-! What of the block no operation writes (10_state.md R27, R31, R33, R34): all but `RESET` leave everything but the
receiver's context as it was, and all but the transitions, the command frames and `RESET` leave the context too. -/

namespace Sys2Proof.Machine

theorem State.SameButContext.refl (s : State) : s.SameButContext s := ⟨rfl, rfl, rfl, rfl⟩

theorem State.SameButContext.trans {s t u : State} (h : s.SameButContext t) (k : t.SameButContext u) :
    s.SameButContext u :=
  ⟨k.cfg.trans h.cfg, k.wasReset.trans h.wasReset, k.txBusy.trans h.txBusy, k.inbox.trans h.inbox⟩

theorem State.SameBlock.sameButContext {s t : State} (h : s.SameBlock t) : s.SameButContext t :=
  ⟨h.cfg, h.wasReset, h.txBusy, h.inbox⟩

theorem sameButContext_setRx (s : State) (rx : RxContext) : s.SameButContext (s.setRx rx) := ⟨rfl, rfl, rfl, rfl⟩

/-- All that a next state of `appendByte` can be. -/
theorem appendByte_eq_next {b : Byte} {next : RxState} {s t : State} (h : appendByte b next s = .next t) :
    s.rx.idx.toNat < Config.rxBufSize ∧ t = s.setRx
      { s.rx with buf := s.rx.buf.write s.rx.idx.toNat b, idx := s.rx.idx + 1, state := next } := by
  by_cases hi : s.rx.idx.toNat < Config.rxBufSize
  · rw [appendByte_next b next s hi] at h
    exact ⟨hi, (Host.Outcome.next.inj h).symm⟩
  · simp [appendByte, memWrite, hi] at h

/-- A dispatch that answers a next state ran a branch. -/
theorem dispatch_eq_next {f : FrameOut} {s t : State} (h : dispatch f s = .next t) :
    ∃ op, decodeDispatch s.cfg f = .ok op ∧ runBranch op s = .next t := by
  cases hd : decodeDispatch s.cfg f with
  | ok op => exact ⟨op, rfl, dispatch_of_decode hd ▸ h⟩
  | error e => simp [dispatch, hd] at h

/-- All that a next state of a completed frame can be: the state the dispatch of its `FrameOut` answers, back in
`WaitForSOF` (R121, R160). -/
theorem completeFrame_eq_next {s t : State} (h : completeFrame s = .next t) :
    ∃ payload u, readPayload s = .ok payload ∧
      dispatch (frameOutOf s.rx payload) (s.output (.frameOut (frameOutOf s.rx payload))) = .next u ∧
      t = u.setRxState .waitForSof := by
  unfold completeFrame at h
  split at h
  · cases h
  · next payload hp =>
    split at h
    · next u hu => exact ⟨payload, u, hp, hu, (Host.Outcome.next.inj h).symm⟩
    · cases h
    · cases h

theorem completeFrame_sameButContext {s t : State} (h : completeFrame s = .next t) : s.SameButContext t := by
  obtain ⟨payload, u, -, hd, rfl⟩ := completeFrame_eq_next h
  obtain ⟨op, -, hb⟩ := dispatch_eq_next hd
  have hu := (SameBlock_output s _).trans (runBranch_eq_next hb).1
  exact hu.sameButContext.trans (sameButContext_setRx u _)

/-- A transition writes the receiver's context alone. -/
theorem runTransition_sameButContext {op : RxOp} {b : Byte} {s t : State} (h : runTransition op b s = .next t) :
    s.SameButContext t := by
  obtain ⟨-, ht⟩ := runTransition_eq_next h
  cases op with
  | waitSof | id | lenZero | csum =>
    obtain ⟨-, rfl⟩ := ht
    exact sameButContext_setRx s _
  | lenOk | lenOver | eofBad =>
    obtain ⟨-, -, rfl⟩ := ht
    exact sameButContext_setRx s _
  | waitSkip =>
    obtain ⟨-, -, rfl⟩ := ht
    exact .refl t
  | payMore | payLast =>
    obtain ⟨-, -, happ⟩ := ht
    obtain ⟨-, rfl⟩ := appendByte_eq_next happ
    exact sameButContext_setRx s _
  | eofOk =>
    obtain ⟨-, hdone⟩ := ht
    exact completeFrame_sameButContext hdone

/-- `RxByte` that answers a next state ran the transition the decode table selects. -/
theorem rxByte_eq_next {b : Byte} {s t : State} (h : rxByte b s = .next t) :
    ∃ op, decodeRx s.cfg s.rx.state b s.rx.idx s.rx.len = .ok op ∧ runTransition op b s = .next t := by
  cases hd : decodeRx s.cfg s.rx.state b s.rx.idx s.rx.len with
  | ok op => exact ⟨op, rfl, rxByte_of_decode hd ▸ h⟩
  | error e => simp [rxByte_of_decode_error hd] at h

/-- A feed that answers a next state took its first byte and fed the rest. -/
theorem feed_cons_eq_next {b : Byte} {bytes : List Byte} {s t : State} (h : feed (b :: bytes) s = .next t) :
    ∃ u, rxByte b s = .next u ∧ feed bytes u = .next t := by
  simp only [feed] at h
  split at h
  · next u hu => exact ⟨u, hu, h⟩
  · cases h
  · cases h

theorem feed_sameButContext {bytes : List Byte} {s t : State} (h : feed bytes s = .next t) : s.SameButContext t := by
  induction bytes generalizing s with
  | nil =>
    obtain rfl : s = t := Host.Outcome.next.inj h
    exact .refl s
  | cons b bytes ih =>
    obtain ⟨u, hb, hrest⟩ := feed_cons_eq_next h
    obtain ⟨op, -, hop⟩ := rxByte_eq_next hb
    exact (runTransition_sameButContext hop).trans (ih hrest)

/-- The checksum engine writes nothing of the block. -/
theorem execChecksum_sameBlock {id length : Byte} {payload : List Byte} {s t : State}
    (h : execChecksum id length payload s = .next t) : s.SameBlock t := by
  unfold execChecksum at h
  split at h
  · obtain rfl := Host.Outcome.next.inj h
    exact SameBlock_output s _
  · cases h

/-- Every row of the dispatcher's format is a branch. -/
theorem exists_dispInstr_of_format {i : Instr} (h : i.format = .dispatch) : ∃ op : DispOp, i = op.instr := by
  cases i with
  | dispBadCsum => exact ⟨.badCsum, rfl⟩
  | dispSetMotors a b => exact ⟨.setMotors a b, rfl⟩
  | dispSetMotorsBadLen => exact ⟨.setMotorsBadLen, rfl⟩
  | dispGetEncoders => exact ⟨.getEncoders, rfl⟩
  | dispResetEncoders => exact ⟨.resetEncoders, rfl⟩
  | dispPing => exact ⟨.ping, rfl⟩
  | dispMoveSteps a b => exact ⟨.moveSteps a b, rfl⟩
  | dispMoveStepsBadLen => exact ⟨.moveStepsBadLen, rfl⟩
  | dispUnknown => exact ⟨.unknown, rfl⟩
  | _ => cases h

/-- Every row of the receiver's format is a transition on some byte. -/
theorem exists_rxInstr_of_format {i : Instr} (h : i.format = .rxStep) : ∃ (op : RxOp) (b : Byte), i = op.instr b := by
  cases i with
  | rxWaitSof => exact ⟨.waitSof, 0, rfl⟩
  | rxWaitSkip b => exact ⟨.waitSkip, b, rfl⟩
  | rxId b => exact ⟨.id, b, rfl⟩
  | rxLenZero => exact ⟨.lenZero, 0, rfl⟩
  | rxLenOk b => exact ⟨.lenOk, b, rfl⟩
  | rxLenOver b => exact ⟨.lenOver, b, rfl⟩
  | rxPayMore b => exact ⟨.payMore, b, rfl⟩
  | rxPayLast b => exact ⟨.payLast, b, rfl⟩
  | rxCsum b => exact ⟨.csum, b, rfl⟩
  | rxEofOk => exact ⟨.eofOk, 0, rfl⟩
  | rxEofBad b => exact ⟨.eofBad, b, rfl⟩
  | _ => cases h

theorem exec_sameButContext_of_rxStep {i : Instr} {s t : State} (hi : i.format = .rxStep)
    (h : exec i s = .next t) : s.SameButContext t := by
  obtain ⟨op, b, rfl⟩ := exists_rxInstr_of_format hi
  exact runTransition_sameButContext (exec_rxInstr op b s ▸ h)

theorem exec_sameBlock_of_dispatch {i : Instr} {s t : State} (hi : i.format = .dispatch)
    (h : exec i s = .next t) : s.SameBlock t := by
  obtain ⟨op, rfl⟩ := exists_dispInstr_of_format hi
  exact (runBranch_eq_next (exec_dispInstr op s ▸ h)).1

/-- Every operation but `RESET` writes, of the block, the receiver's context alone: a transition writes it, a command
frame is a feed of transitions, and every other row leaves the whole block as it was. -/
theorem exec_sameButContext {i : Instr} {s t : State} (hi : i ≠ .reset) (h : exec i s = .next t) :
    s.SameButContext t := by
  cases i with
  | rxWaitSof | rxWaitSkip | rxId | rxLenZero | rxLenOk | rxLenOver | rxPayMore | rxPayLast | rxCsum | rxEofOk
  | rxEofBad => exact exec_sameButContext_of_rxStep rfl h
  | reset => exact absurd rfl hi
  | checksum => exact (execChecksum_sameBlock h).sameButContext
  | encode | encoderData | modeData | ack | error | pong => exact (encodeCall_eq_next h).2.1.sameButContext
  | setMotors | getEncoders | resetEncoders | ping | moveSteps | getMode => exact feed_sameButContext h
  | dispBadCsum | dispSetMotors | dispSetMotorsBadLen | dispGetEncoders | dispResetEncoders | dispPing | dispMoveSteps
  | dispMoveStepsBadLen | dispUnknown => exact (exec_sameBlock_of_dispatch rfl h).sameButContext

/-- No operation writes the parameters, `RESET` included (R31). -/
theorem exec_cfg {i : Instr} {s t : State} (h : exec i s = .next t) : t.cfg = s.cfg := by
  by_cases hi : i = .reset
  · subst hi
    obtain rfl := Host.Outcome.next.inj h
    rfl
  · exact (exec_sameButContext hi h).cfg

/-- A step that answers a next state waited, with no input pending, or ran the operation its oldest input decodes to,
that input taken (R17, R126). -/
theorem step_eq_next {s t : State} (h : step s = .next t) :
    (s.inbox = [] ∧ t = s) ∨
    ∃ input rest i, s.inbox = input :: rest ∧ decode s.cfg (s.wordOf input) = .ok i ∧
      exec i (s.setInbox rest) = .next t := by
  cases hin : s.inbox with
  | nil =>
    have hidle : fetch s = .idle := by simp [fetch, hin]
    exact .inl ⟨rfl, by simpa [step, hidle] using h.symm⟩
  | cons input rest =>
    cases hd : decode s.cfg (s.wordOf input) with
    | ok i => exact .inr ⟨input, rest, i, rfl, hd, step_of_decode_ok hin hd ▸ h⟩
    | error e => simp [step_of_decode_error hin hd] at h

/-- Settles O54: a step that waits changes nothing, and taking an input and running its operation both leave the
parameters. -/
theorem parametersNeverChange : Obligations.ParametersNeverChange := by
  intro s t h
  obtain ⟨-, rfl⟩ | ⟨input, rest, i, -, -, hexec⟩ := step_eq_next h
  · rfl
  · exact (exec_cfg hexec).trans (State.setInbox_cfg s rest)

/-- Settles O55: each of these operations is a dispatcher branch, the checksum engine or one `Encode`, and each of the
three leaves the whole block as it was. -/
theorem onlyTheReceiverWritesTheContext : Obligations.OnlyTheReceiverWritesTheContext := by
  intro i s t h hi
  have hsame : s.SameBlock t := by
    obtain hd | ⟨id, len, p, rfl⟩ | henc := hi
    · exact exec_sameBlock_of_dispatch hd h
    · exact execChecksum_sameBlock h
    · obtain ⟨id, p, rfl⟩ | ⟨a, b, rfl⟩ | ⟨m, rfl⟩ | ⟨c, rfl⟩ | ⟨e, rfl⟩ | rfl := henc <;>
        exact (encodeCall_eq_next h).2.1
  exact ⟨hsame.rx, hsame.cells⟩

end Sys2Proof.Machine

/-! A ready receiver in `WaitForSOF` (30_encoding.md R86, 41_receiver.md R112, R113), and a feed of two chunks. -/

namespace Sys2Proof.Machine

/-- In `WaitForSOF` a byte that is not `SOF` selects `RX.WAIT.SKIP`, which writes nothing (R113). -/
theorem rxByte_waitForSof_of_ne_sof {s : State} {b : Byte} (hr : s.Ready) (hst : s.rx.state = .waitForSof)
    (hb : b ≠ s.cfg.sof) : rxByte b s = .next s := by
  have hd : decodeRx s.cfg s.rx.state b s.rx.idx s.rx.len = .ok .waitSkip := by simp [decodeRx, hst, hb]
  calc rxByte b s = execRxWaitSkip b s := rxByte_of_decode hd
    _ = .next s := receive_ready _ hr (by simp [hst, hb])

/-- In `WaitForSOF` the byte `SOF` selects `RX.WAIT.SOF`, which writes `rx.state` alone (R112). -/
theorem rxByte_waitForSof_sof {s : State} (hr : s.Ready) (hst : s.rx.state = .waitForSof) :
    rxByte s.cfg.sof s = .next (s.setRxState .readId) := by
  have hd : decodeRx s.cfg s.rx.state s.cfg.sof s.rx.idx s.rx.len = .ok .waitSof := by simp [decodeRx, hst]
  calc rxByte s.cfg.sof s = execRxWaitSof s := rxByte_of_decode hd
    _ = .next (s.setRxState .readId) := receive_ready _ hr (by simp [hst])

/-- A byte that answers a next state hands it to the rest of the feed. -/
theorem feed_cons_of_next {b : Byte} {bytes : List Byte} {s t : State} (h : rxByte b s = .next t) :
    feed (b :: bytes) s = feed bytes t := by
  simp [feed, h]

/-- A chunk that answers a next state hands it to the chunk after it (R111). -/
theorem feed_append_of_next {xs ys : List Byte} {s t : State} (h : feed xs s = .next t) :
    feed (xs ++ ys) s = feed ys t := by
  induction xs generalizing s with
  | nil =>
    obtain rfl : s = t := Host.Outcome.next.inj h
    rfl
  | cons b xs ih =>
    obtain ⟨u, hb, hrest⟩ := feed_cons_eq_next h
    calc feed (b :: xs ++ ys) s = feed (xs ++ ys) u := feed_cons_of_next hb
      _ = feed ys t := ih hrest

/-- In `WaitForSOF` a chunk without `SOF` changes nothing: each of its bytes leaves the receiver where it was (R86). -/
theorem feed_waitForSof_of_forall_ne_sof {s : State} {bytes : List Byte} (hr : s.Ready)
    (hst : s.rx.state = .waitForSof) (hbytes : ∀ b ∈ bytes, b ≠ s.cfg.sof) : feed bytes s = .next s := by
  induction bytes with
  | nil => rfl
  | cons b bytes ih =>
    obtain ⟨hb, hrest⟩ := List.forall_mem_cons.mp hbytes
    calc feed (b :: bytes) s = feed bytes s := feed_cons_of_next (rxByte_waitForSof_of_ne_sof hr hst hb)
      _ = .next s := ih hrest

/-- Settles O24: the bytes without `SOF` leave the state as it was, and in it the `SOF` after them starts a frame. -/
theorem bytesBeforeSofAreIgnored : Obligations.BytesBeforeSofAreIgnored := by
  intro s bytes hr hst hbytes
  have hskip : feed bytes s = .next s := feed_waitForSof_of_forall_ne_sof hr hst hbytes
  refine ⟨hskip, ?_⟩
  calc feed (bytes ++ [s.cfg.sof]) s = feed [s.cfg.sof] s := feed_append_of_next hskip
    _ = feed [] (s.setRxState .readId) := feed_cons_of_next (rxByte_waitForSof_sof hr hst)
    _ = .next { s with rx := { s.rx with state := .readId } } := rfl

end Sys2Proof.Machine

/-! The decode table as its column "selected when" (30_encoding.md R82), and each row of the receiver in a ready receiver
that meets the row's condition (41_receiver.md R112 to R122). -/

namespace Sys2Proof

theorem lengthAccepted_eq_true {b : Byte} : lengthAccepted b = true ↔ 0 < b.toNat ∧ b.toNat < 255 := by
  simp [lengthAccepted]

theorem lengthOver_eq_true {b : Byte} : lengthOver b = true ↔ 255 ≤ b.toNat := by
  simp [lengthOver]

theorem payloadMore_eq_true {idx len : Byte} : payloadMore idx len = true ↔ idx.toNat + 1 < len.toNat := by
  simp [payloadMore]

theorem payloadLast_eq_true {idx len : Byte} : payloadLast idx len = true ↔ idx.toNat + 1 = len.toNat := by
  simp [payloadLast]

end Sys2Proof

namespace Sys2Proof.Machine

/-- The decode table selects a transition exactly where the column "selected when" holds of it. -/
theorem decodeRx_eq_ok_iff {c : Config} {st : RxState} {b idx len : Byte} {op : RxOp} :
    decodeRx c st b idx len = .ok op ↔ rxCondition c st b idx len op := by
  cases st with
  | readId | readChecksum => cases op <;> simp [decodeRx, rxCondition]
  | waitForSof => by_cases hb : b = c.sof <;> cases op <;> simp [decodeRx, rxCondition, hb]
  | readEof => by_cases hb : b = c.eof <;> cases op <;> simp [decodeRx, rxCondition, hb]
  | readLength =>
    simp only [decodeRx, lengthAccepted_eq_true, Byte.eq_zero_iff]
    split
    · cases op <;> simp [rxCondition] <;> omega
    · split <;> cases op <;> simp [rxCondition] <;> omega
  | readPayload =>
    simp only [decodeRx, payloadMore_eq_true, payloadLast_eq_true]
    split
    · cases op <;> simp [rxCondition] <;> omega
    · split <;> cases op <;> simp [rxCondition] <;> omega

/-- `RxByte` answers what the row the decode table selects answers. -/
theorem rxByte_and_exec_of_decode {s : State} {b : Byte} {op : RxOp} {r : Result}
    (hd : decodeRx s.cfg s.rx.state b s.rx.idx s.rx.len = .ok op) (h : exec (op.instr b) s = r) :
    rxByte b s = r ∧ exec (op.instr b) s = r :=
  ⟨((rxByte_of_decode hd).trans (exec_rxInstr op b s).symm).trans h, h⟩

section
variable {s : State} (hr : s.Ready)
include hr

theorem exec_rxWaitSof (hst : s.rx.state = .waitForSof) : exec .rxWaitSof s = .next (s.setRxState .readId) :=
  show execRxWaitSof s = _ from receive_ready _ hr (by simp [hst])

theorem exec_rxWaitSkip {b : Byte} (hst : s.rx.state = .waitForSof) (hb : b ≠ s.cfg.sof) :
    exec (.rxWaitSkip b) s = .next s :=
  show execRxWaitSkip b s = _ from receive_ready _ hr (by simp [hst, hb])

theorem exec_rxId (b : Byte) (hst : s.rx.state = .readId) :
    exec (.rxId b) s = .next (s.setRx { s.rx with id := b, state := .readLength }) :=
  show execRxId b s = _ from receive_ready _ hr (by simp [hst])

theorem exec_rxLenZero (hst : s.rx.state = .readLength) :
    exec .rxLenZero s = .next (s.setRx { s.rx with len := 0, state := .readChecksum }) :=
  show execRxLenZero s = _ from receive_ready _ hr (by simp [hst])

theorem exec_rxLenOk {b : Byte} (hst : s.rx.state = .readLength) (hb : lengthAccepted b = true) :
    exec (.rxLenOk b) s = .next (s.setRx { s.rx with len := b, idx := 0, state := .readPayload }) :=
  show execRxLenOk b s = _ from receive_ready _ hr (by simp [hst, hb])

theorem exec_rxLenOver {b : Byte} (hst : s.rx.state = .readLength) (hb : lengthOver b = true) :
    exec (.rxLenOver b) s = .next (s.setRx { s.rx with len := b, state := .waitForSof }) :=
  show execRxLenOver b s = _ from receive_ready _ hr (by simp [hst, hb])

theorem exec_rxPayMore (b : Byte) (hst : s.rx.state = .readPayload) (hg : payloadMore s.rx.idx s.rx.len = true) :
    exec (.rxPayMore b) s = .next (s.setRx
      { s.rx with buf := s.rx.buf.write s.rx.idx.toNat b, idx := s.rx.idx + 1, state := .readPayload }) := by
  have hidx : s.rx.idx.toNat < 255 := by have := payloadMore_eq_true.1 hg; omega
  calc exec (.rxPayMore b) s = appendByte b .readPayload s :=
        show execRxPayMore b s = _ from receive_ready _ hr (by simp [hst, hg])
    _ = _ := appendByte_next b .readPayload s hidx

theorem exec_rxPayLast (b : Byte) (hst : s.rx.state = .readPayload) (hg : payloadLast s.rx.idx s.rx.len = true) :
    exec (.rxPayLast b) s = .next (s.setRx
      { s.rx with buf := s.rx.buf.write s.rx.idx.toNat b, idx := s.rx.idx + 1, state := .readChecksum }) := by
  have hidx : s.rx.idx.toNat < 255 := by have := payloadLast_eq_true.1 hg; omega
  calc exec (.rxPayLast b) s = appendByte b .readChecksum s :=
        show execRxPayLast b s = _ from receive_ready _ hr (by simp [hst, hg])
    _ = _ := appendByte_next b .readChecksum s hidx

theorem exec_rxCsum (b : Byte) (hst : s.rx.state = .readChecksum) :
    exec (.rxCsum b) s = .next (s.setRx { s.rx with csum := b, state := .readEof }) :=
  show execRxCsum b s = _ from receive_ready _ hr (by simp [hst])

theorem exec_rxEofOk (hst : s.rx.state = .readEof) : exec .rxEofOk s = completeFrame s :=
  show execRxEofOk s = _ from receive_ready _ hr (by simp [hst])

theorem exec_rxEofBad {b : Byte} (hst : s.rx.state = .readEof) (hb : b ≠ s.cfg.eof) :
    exec (.rxEofBad b) s = .next (s.setRxState .waitForSof) :=
  show execRxEofBad b s = _ from receive_ready _ hr (by simp [hst, hb])

end

/-- Settles O12: the decode table selects `RX.WAIT.SOF`. -/
theorem rxWaitSofMovesToReadId : Obligations.RxWaitSofMovesToReadId :=
  fun _ hr hst => rxByte_and_exec_of_decode (op := .waitSof) (decodeRx_eq_ok_iff.2 ⟨hst, rfl⟩) (exec_rxWaitSof hr hst)

/-- Settles O13: the decode table selects `RX.WAIT.SKIP`. -/
theorem rxWaitSkipLeavesTheContext : Obligations.RxWaitSkipLeavesTheContext :=
  fun _ _ hr hst hb =>
    rxByte_and_exec_of_decode (op := .waitSkip) (decodeRx_eq_ok_iff.2 ⟨hst, hb⟩) (exec_rxWaitSkip hr hst hb)

/-- Settles O14: the decode table selects `RX.ID`. -/
theorem rxIdStoresTheId : Obligations.RxIdStoresTheId :=
  fun _ b hr hst => rxByte_and_exec_of_decode (op := .id) (decodeRx_eq_ok_iff.2 hst) (exec_rxId hr b hst)

/-- The index after a payload byte, without wrap: the guards of R118 and R119 leave room below 255. -/
theorem toNat_add_one_of_lt {idx : Byte} (h : idx.toNat < 255) : (idx + 1).toNat = idx.toNat + 1 :=
  BitVec.toNat_add_of_lt (show idx.toNat + 1 < 2 ^ 8 by omega)

/-- Settles O18: the decode table selects `RX.PAY.MORE`, and what its state reads is the write's rule. -/
theorem rxPayMoreAppendsTheByte : Obligations.RxPayMoreAppendsTheByte := by
  intro s b hr hst hg
  obtain ⟨hbyte, hrow⟩ := rxByte_and_exec_of_decode (op := .payMore) (decodeRx_eq_ok_iff.2 ⟨hst, hg⟩)
    (exec_rxPayMore hr b hst (payloadMore_eq_true.2 hg))
  exact ⟨_, hbyte, hrow, by simp only [State.setRx, hst], toNat_add_one_of_lt (by omega),
    Memory.read_write_self .., fun a ha => Memory.read_write_of_ne _ b ha⟩

/-- Settles O19: the decode table selects `RX.PAY.LAST`, and what its state reads is the write's rule. -/
theorem rxPayLastEndsThePayload : Obligations.RxPayLastEndsThePayload := by
  intro s b hr hst hg
  obtain ⟨hbyte, hrow⟩ := rxByte_and_exec_of_decode (op := .payLast) (decodeRx_eq_ok_iff.2 ⟨hst, hg⟩)
    (exec_rxPayLast hr b hst (payloadLast_eq_true.2 hg))
  have hidx : s.rx.idx + 1 = s.rx.len := BitVec.eq_of_toNat_eq (by rw [toNat_add_one_of_lt (by omega), hg])
  exact ⟨_, hbyte, hrow, rfl, hidx, Memory.read_write_self .., fun a ha => Memory.read_write_of_ne _ b ha⟩

/-- Settles O20: the decode table selects `RX.CSUM`. -/
theorem rxCsumStoresTheChecksum : Obligations.RxCsumStoresTheChecksum :=
  fun _ b hr hst => rxByte_and_exec_of_decode (op := .csum) (decodeRx_eq_ok_iff.2 hst) (exec_rxCsum hr b hst)

/-- Settles O22: the decode table selects `RX.EOF.BAD`. -/
theorem rxEofBadDiscardsTheFrame : Obligations.RxEofBadDiscardsTheFrame :=
  fun _ _ hr hst hb =>
    rxByte_and_exec_of_decode (op := .eofBad) (decodeRx_eq_ok_iff.2 ⟨hst, hb⟩) (exec_rxEofBad hr hst hb)

/-- Settles O23: the chunk after the first starts where the first left the receiver, or never starts. -/
theorem chunkBoundariesDoNotMatter : Obligations.ChunkBoundariesDoNotMatter := by
  refine ⟨fun _ => rfl, fun s b => ?_, fun s xs ys => ?_⟩
  · simp only [feed]
    cases rxByte b s <;> rfl
  · induction xs generalizing s with
    | nil => rfl
    | cons b xs ih =>
      simp only [List.cons_append, feed]
      cases rxByte b s with
      | next u => exact ih u
      | fault | refused => rfl

/-- Settles O60: with no input to take, the fetch is idle. -/
theorem machineWaitsForInput : Obligations.MachineWaitsForInput := by
  intro s hin
  have hidle : fetch s = .idle := by simp [fetch, hin]
  simp [step, hidle]

end Sys2Proof.Machine

/-! The delimiters in the middle of a frame (41_receiver.md R125). -/

namespace Sys2Proof.Machine

/-- The block built with other delimiters, in the same state. -/
def State.withDelimiters (s : State) (sof eof : Byte) : State :=
  { s with cfg := { s.cfg with sof := sof, eof := eof } }

/-- The decode table reads `SOF` in `WaitForSOF` alone and `EOF` in `ReadEof` alone. -/
theorem decodeRx_eq_of_delimiters {c c' : Config} {st : RxState} (b idx len : Byte)
    (hsof : st = .waitForSof → c.sof = c'.sof) (heof : st = .readEof → c.eof = c'.eof) :
    decodeRx c st b idx len = decodeRx c' st b idx len := by
  cases st with
  | waitForSof => simp only [decodeRx, hsof rfl]
  | readEof => simp only [decodeRx, heof rfl]
  | readId | readLength | readPayload | readChecksum => rfl

/-- In the middle of a frame the row of a transition does the same in a block built with other delimiters. -/
theorem runTransition_withDelimiters {op : RxOp} {b : Byte} {s t : State} (sof eof : Byte)
    (hwait : s.rx.state ≠ .waitForSof) (heof : s.rx.state ≠ .readEof) (h : runTransition op b s = .next t) :
    runTransition op b (s.withDelimiters sof eof) = .next (t.withDelimiters sof eof) := by
  obtain ⟨hr, ht⟩ := runTransition_eq_next h
  have hr' : (s.withDelimiters sof eof).Ready := ⟨hr.wasReset, hr.notBusy⟩
  rw [← exec_rxInstr]
  cases op with
  | waitSof | waitSkip => exact absurd ht.1 hwait
  | eofOk | eofBad => exact absurd ht.1 heof
  | id =>
    obtain ⟨hst, rfl⟩ := ht
    exact exec_rxId hr' b hst
  | lenZero =>
    obtain ⟨hst, rfl⟩ := ht
    exact exec_rxLenZero hr' hst
  | lenOk =>
    obtain ⟨hst, hb, rfl⟩ := ht
    exact exec_rxLenOk hr' hst hb
  | lenOver =>
    obtain ⟨hst, hb, rfl⟩ := ht
    exact exec_rxLenOver hr' hst hb
  | payMore =>
    obtain ⟨hst, hg, happ⟩ := ht
    obtain ⟨-, rfl⟩ := appendByte_eq_next happ
    exact exec_rxPayMore hr' b hst hg
  | payLast =>
    obtain ⟨hst, hg, happ⟩ := ht
    obtain ⟨-, rfl⟩ := appendByte_eq_next happ
    exact exec_rxPayLast hr' b hst hg
  | csum =>
    obtain ⟨hst, rfl⟩ := ht
    exact exec_rxCsum hr' b hst

/-- In the middle of a frame `RxByte` does the same in a block built with other delimiters. -/
theorem rxByte_withDelimiters {b : Byte} {s t : State} (sof eof : Byte) (hwait : s.rx.state ≠ .waitForSof)
    (heof : s.rx.state ≠ .readEof) (h : rxByte b s = .next t) :
    rxByte b (s.withDelimiters sof eof) = .next (t.withDelimiters sof eof) := by
  obtain ⟨op, hd, hop⟩ := rxByte_eq_next h
  have hd' : decodeRx (s.withDelimiters sof eof).cfg s.rx.state b s.rx.idx s.rx.len = .ok op :=
    (decodeRx_eq_of_delimiters b _ _ (absurd · hwait) (absurd · heof)).trans hd
  exact (rxByte_of_decode hd').trans (runTransition_withDelimiters sof eof hwait heof hop)

/-- Only `RX.WAIT.SOF` leads to `ReadId`, and it is taken in `WaitForSOF` alone. -/
theorem rxByte_state_ne_readId {b : Byte} {s t : State} (hwait : s.rx.state ≠ .waitForSof)
    (h : rxByte b s = .next t) : t.rx.state ≠ .readId := by
  obtain ⟨op, -, hop⟩ := rxByte_eq_next h
  obtain ⟨-, ht⟩ := runTransition_eq_next hop
  cases op with
  | waitSof | waitSkip => exact absurd ht.1 hwait
  | id | lenZero | csum =>
    obtain ⟨-, rfl⟩ := ht
    simp
  | lenOk | lenOver | eofBad =>
    obtain ⟨-, -, rfl⟩ := ht
    simp
  | payMore | payLast =>
    obtain ⟨-, -, happ⟩ := ht
    obtain ⟨-, rfl⟩ := appendByte_eq_next happ
    simp
  | eofOk =>
    obtain ⟨-, hdone⟩ := ht
    obtain ⟨_, _, -, -, rfl⟩ := completeFrame_eq_next hdone
    simp

/-- Settles O5: what the decode table reads, and what the middle transitions and their next states are. -/
theorem delimitersTestedInOneStateEach : Obligations.DelimitersTestedInOneStateEach :=
  ⟨fun _ _ _ b idx len => decodeRx_eq_of_delimiters b idx len, fun _ _ _ sof eof => rxByte_withDelimiters sof eof,
    fun _ _ _ => rxByte_state_ne_readId⟩

end Sys2Proof.Machine

/-! A receiver whose context meets its invariant takes every byte (41_receiver.md R110, R124). -/

namespace Sys2Proof.Machine

/-- Wherever `ReadPayload` has room, the decode table selects a transition (R124). -/
theorem decodeRx_total (c : Config) {st : RxState} (b : Byte) {idx len : Byte}
    (hroom : st = .readPayload → idx.toNat < len.toNat) : ∃ op, decodeRx c st b idx len = .ok op := by
  cases st with
  | readId | readChecksum => exact ⟨_, rfl⟩
  | waitForSof =>
    by_cases hb : b = c.sof
    · exact ⟨.waitSof, decodeRx_eq_ok_iff.2 ⟨rfl, hb⟩⟩
    · exact ⟨.waitSkip, decodeRx_eq_ok_iff.2 ⟨rfl, hb⟩⟩
  | readEof =>
    by_cases hb : b = c.eof
    · exact ⟨.eofOk, decodeRx_eq_ok_iff.2 ⟨rfl, hb⟩⟩
    · exact ⟨.eofBad, decodeRx_eq_ok_iff.2 ⟨rfl, hb⟩⟩
  | readLength =>
    obtain hz | hok | hover : b.toNat = 0 ∨ (0 < b.toNat ∧ b.toNat < 255) ∨ 255 ≤ b.toNat := by omega
    · exact ⟨.lenZero, decodeRx_eq_ok_iff.2 ⟨rfl, hz⟩⟩
    · exact ⟨.lenOk, decodeRx_eq_ok_iff.2 ⟨rfl, hok⟩⟩
    · exact ⟨.lenOver, decodeRx_eq_ok_iff.2 ⟨rfl, hover⟩⟩
  | readPayload =>
    obtain hmore | hlast : idx.toNat + 1 < len.toNat ∨ idx.toNat + 1 = len.toNat := by
      have := hroom rfl
      omega
    · exact ⟨.payMore, decodeRx_eq_ok_iff.2 ⟨rfl, hmore⟩⟩
    · exact ⟨.payLast, decodeRx_eq_ok_iff.2 ⟨rfl, hlast⟩⟩

theorem respond_total {s : State} (id : Byte) {payload : List Byte} (hp : payload.length ≤ 254)
    (hb : s.txBusy = false) (hs : s.SinkReports) : ∃ t, respond id payload s = .next t :=
  (respond_next id payload hp hb hs).imp fun _ ht => ht.1

/-- Every branch of the dispatcher answers a next state where the sink reports. -/
theorem runBranch_total (op : DispOp) {s : State} (hb : s.txBusy = false) (hs : s.SinkReports) :
    ∃ t, runBranch op s = .next t := by
  cases op with
  | setMotorsBadLen | moveStepsBadLen => exact ⟨s, rfl⟩
  | badCsum | ping | unknown => exact respond_total (s := s) _ (by simp) hb hs
  | setMotors | resetEncoders | moveSteps => exact respond_total (s := s.output _) _ (by simp) hb hs
  | getEncoders =>
    obtain ⟨hsame, -, hsink, -⟩ := askEncoders_same (s.output (.call .getEncoders))
    have hs' : (askEncoders (s.output (.call .getEncoders))).2.SinkReports := by
      rw [State.SinkReports, hsink]
      exact hs
    exact respond_total _ ((pair32Bytes_length ..).le.trans (by decide)) (hsame.txBusy.trans hb) hs'

/-- A `FrameOut` that holds its `len` bytes is dispatched to a next state where the sink reports. -/
theorem dispatch_total {f : FrameOut} {s : State} (hf : f.payload.length = f.len.toNat) (hb : s.txBusy = false)
    (hs : s.SinkReports) : ∃ t, dispatch f s = .next t := by
  obtain ⟨op, hd⟩ := decodeDispatch_total s.cfg f hf
  exact (runBranch_total op hb hs).imp fun _ ht => (dispatch_of_decode hd).trans ht

/-- A frame whose payload can be read and whose dispatch answers a next state is complete (R121, R160). -/
theorem completeFrame_of_dispatch {s u : State} {payload : List Byte} (hp : readPayload s = .ok payload)
    (hd : dispatch (frameOutOf s.rx payload) (s.output (.frameOut (frameOutOf s.rx payload))) = .next u) :
    completeFrame s = .next (u.setRxState .waitForSof) := by
  simp [completeFrame, hp, hd]

/-- A frame whose payload cells are written is handed out and dispatched, where the sink reports. -/
theorem completeFrame_total {s : State} (hb : s.txBusy = false) (hs : s.SinkReports)
    (hlen : s.rx.len.toNat ≤ Config.maxPayload) (hw : s.rx.buf.Written s.rx.len.toNat) :
    ∃ t, completeFrame s = .next t := by
  obtain ⟨payload, hpl, hholds⟩ := hw.holds
  have hp : readPayload s = .ok payload := by
    rw [readPayload, ← hpl]
    exact memReadList_of_holds hholds (hpl.trans_le (hlen.trans (by decide)))
  obtain ⟨u, hu⟩ := dispatch_total (f := frameOutOf s.rx payload)
    (s := s.output (.frameOut (frameOutOf s.rx payload))) hpl hb hs
  exact ⟨_, completeFrame_of_dispatch hp hu⟩

/-- Settles O26: the decode table selects a transition (R36(a)), and the row of each answers a next state: the payload
cells that `RX.EOF.OK` reads are written (R36(b)). -/
theorem rxByteNeverRefusesAByte : Obligations.RxByteNeverRefusesAByte := by
  intro s b hinv hs
  have hr := hinv.ready
  have hroom : s.rx.state = .readPayload → s.rx.idx.toNat < s.rx.len.toNat := fun hst => by
    obtain ⟨-, -, hlt, -⟩ := hinv.rx.payload hst
    exact hlt
  obtain ⟨op, hd⟩ := decodeRx_total s.cfg b hroom
  have hc := decodeRx_eq_ok_iff.1 hd
  suffices hrow : ∃ t, exec (op.instr b) s = .next t from hrow.imp fun _ ht => (rxByte_and_exec_of_decode hd ht).1
  cases op with
  | waitSof => exact ⟨_, exec_rxWaitSof hr hc.1⟩
  | waitSkip => exact ⟨_, exec_rxWaitSkip hr hc.1 hc.2⟩
  | id => exact ⟨_, exec_rxId hr b hc⟩
  | lenZero => exact ⟨_, exec_rxLenZero hr hc.1⟩
  | lenOk => exact ⟨_, exec_rxLenOk hr hc.1 (lengthAccepted_eq_true.2 hc.2)⟩
  | lenOver => exact ⟨_, exec_rxLenOver hr hc.1 (lengthOver_eq_true.2 hc.2)⟩
  | payMore => exact ⟨_, exec_rxPayMore hr b hc.1 (payloadMore_eq_true.2 hc.2)⟩
  | payLast => exact ⟨_, exec_rxPayLast hr b hc.1 (payloadLast_eq_true.2 hc.2)⟩
  | csum => exact ⟨_, exec_rxCsum hr b hc⟩
  | eofOk =>
    obtain ⟨hlen, hw⟩ := hinv.rx.complete (.inr hc.1)
    exact (completeFrame_total hr.notBusy hs hlen hw).imp fun _ ht => (exec_rxEofOk hr hc.1).trans ht
  | eofBad => exact ⟨_, exec_rxEofBad hr hc.1 hc.2⟩

end Sys2Proof.Machine

/-! What of the context the bytes to come can still read (10_state.md R35, 41_receiver.md R129): the dispatcher reads
nothing of it, and each state of the receiver only what the frame in progress has written. -/

namespace Sys2Proof.Machine

theorem askSink_setRx (s : State) (rx : RxContext) :
    askSink (s.setRx rx) = (askSink s).map fun r => (r.1, r.2.setRx rx) := by
  simp only [askSink, State.setRx_sinkAnswers]
  split <;> rfl

theorem askEncoders_setRx (s : State) (rx : RxContext) :
    askEncoders (s.setRx rx) = ((askEncoders s).1, (askEncoders s).2.setRx rx) := by
  simp only [askEncoders, State.setRx_encoderAnswers]
  split <;> rfl

/-- A frame is handed to the sink whatever the receiver's context holds. -/
theorem sinkSend_setRx {bytes : List Byte} {s t : State} {status : SinkStatus} (rx : RxContext)
    (h : sinkSend bytes s = .next (status, t)) : sinkSend bytes (s.setRx rx) = .next (status, t.setRx rx) := by
  have hask : askSink (((s.setRx rx).setTxBusy true).output (.sinkSend bytes)) = _ :=
    askSink_setRx ((s.setTxBusy true).output (.sinkSend bytes)) rx
  simp only [sinkSend] at h ⊢
  rw [hask]
  split at h
  · next hs =>
    obtain ⟨rfl, rfl⟩ : _ ∧ _ := by simpa using h
    simp only [hs, Option.map_some]
    rfl
  · cases h

theorem encodeSend_setRx {id : Byte} {payload : List Byte} {s t : State} {status : SinkStatus} (rx : RxContext)
    (h : encodeSend id payload s = .next (status, t)) :
    encodeSend id payload (s.setRx rx) = .next (status, t.setRx rx) := by
  unfold encodeSend at h
  split at h
  · cases h
  · split at h
    · cases h
    · next hlen hbusy => simpa [encodeSend, hlen, hbusy] using sinkSend_setRx rx h

/-- The dispatcher's request is sent whatever the receiver's context holds. -/
theorem respond_setRx {id : Byte} {payload : List Byte} {s t : State} (rx : RxContext)
    (h : respond id payload s = .next t) : respond id payload (s.setRx rx) = .next (t.setRx rx) := by
  unfold respond at h
  split at h
  · next hsend =>
    obtain rfl := Host.Outcome.next.inj h
    simp only [respond, encodeSend_setRx rx hsend]
  · cases h
  · cases h

/-- Every branch of the dispatcher runs whatever the receiver's context holds. -/
theorem runBranch_setRx {op : DispOp} {s t : State} (rx : RxContext) (h : runBranch op s = .next t) :
    runBranch op (s.setRx rx) = .next (t.setRx rx) := by
  cases op with
  | setMotorsBadLen | moveStepsBadLen =>
    obtain rfl : s = t := Host.Outcome.next.inj h
    rfl
  | badCsum | ping | unknown | setMotors | resetEncoders | moveSteps => exact respond_setRx rx h
  | getEncoders =>
    have hask : askEncoders ((s.setRx rx).output (.call .getEncoders)) = _ :=
      askEncoders_setRx (s.output (.call .getEncoders)) rx
    simp only [runBranch, execDispGetEncoders, hask] at h ⊢
    exact respond_setRx rx h

theorem dispatch_setRx {f : FrameOut} {s t : State} (rx : RxContext) (h : dispatch f s = .next t) :
    dispatch f (s.setRx rx) = .next (t.setRx rx) := by
  obtain ⟨op, hd, hop⟩ := dispatch_eq_next h
  exact (dispatch_of_decode (s := s.setRx rx) hd).trans (runBranch_setRx rx hop)

/-- The first `n` cells of both buffers read the same. -/
def Memory.AgreeBelow (m m' : Memory) (n : Nat) : Prop := ∀ k < n, m'.read k = m.read k

/-- A byte written to the cell after them in both buffers is one more cell that reads the same. -/
theorem Memory.AgreeBelow.write {m m' : Memory} {n : Nat} (h : m.AgreeBelow m' n) (b : Byte) :
    (m.write n b).AgreeBelow (m'.write n b) (n + 1) := by
  intro k hk
  obtain rfl | hne := eq_or_ne k n
  · rw [Memory.read_write_self, Memory.read_write_self]
  · rw [Memory.read_write_of_ne _ _ hne, Memory.read_write_of_ne _ _ hne]
    exact h k (by omega)

/-- Buffers that agree on the payload's cells give the same payload. -/
theorem Memory.AgreeBelow.readList {m m' : Memory} {n : Nat} {vs : List Byte} (h : m.AgreeBelow m' n)
    (hvs : memReadList m 0 n = .ok vs) : memReadList m' 0 n = .ok vs := by
  obtain ⟨hlen, hread⟩ := memReadList_eq_ok.1 hvs
  refine memReadList_eq_ok.2 ⟨hlen, fun k hk => ?_⟩
  obtain ⟨hsize, hcell⟩ := memRead_eq_ok.1 (hread k hk)
  exact memRead_eq_ok.2 ⟨hsize, (h (0 + k) (by omega)).trans hcell⟩

/-- `rx'` holds what the frame in progress has put into `rx`: the registers and cells written since its `SOF`. What else
stands in them is stale. -/
def RxContext.SameFrame (rx rx' : RxContext) : Prop :=
  rx'.state = rx.state ∧
  match rx.state with
  | .waitForSof | .readId => True
  | .readLength => rx'.id = rx.id
  | .readPayload => rx'.id = rx.id ∧ rx'.len = rx.len ∧ rx'.idx = rx.idx ∧ rx.buf.AgreeBelow rx'.buf rx.idx.toNat
  | .readChecksum => rx'.id = rx.id ∧ rx'.len = rx.len ∧ rx.buf.AgreeBelow rx'.buf rx.len.toNat
  | .readEof => rx'.id = rx.id ∧ rx'.len = rx.len ∧ rx'.csum = rx.csum ∧ rx.buf.AgreeBelow rx'.buf rx.len.toNat

/-- The transition selected depends on what the frame in progress has written alone. -/
theorem RxContext.SameFrame.decodeRx_eq {rx rx' : RxContext} (h : rx.SameFrame rx') (c : Config) (b : Byte) :
    decodeRx c rx'.state b rx'.idx rx'.len = decodeRx c rx.state b rx.idx rx.len := by
  obtain ⟨hst, hsame⟩ := h
  rw [hst]
  cases hs : rx.state with
  | readPayload =>
    obtain ⟨-, hlen, hidx, -⟩ : _ ∧ _ ∧ _ ∧ _ := by simpa only [hs] using hsame
    rw [hlen, hidx]
  | waitForSof | readId | readLength | readChecksum | readEof => rfl

/-- A completed frame is handed out and dispatched from what the frame has written alone. -/
theorem completeFrame_setRx {s t : State} {rx : RxContext} (hid : rx.id = s.rx.id) (hlen : rx.len = s.rx.len)
    (hcsum : rx.csum = s.rx.csum) (hbuf : s.rx.buf.AgreeBelow rx.buf s.rx.len.toNat)
    (h : completeFrame s = .next t) : completeFrame (s.setRx rx) = .next (t.setRx { rx with state := .waitForSof }) := by
  obtain ⟨payload, u, hp, hd, rfl⟩ := completeFrame_eq_next h
  have hp' : readPayload (s.setRx rx) = .ok payload := by
    simp only [readPayload, State.setRx_rx, hlen]
    exact hbuf.readList hp
  have hf : frameOutOf rx payload = frameOutOf s.rx payload := by simp only [frameOutOf, hid, hlen, hcsum]
  have hd' : dispatch (frameOutOf rx payload) ((s.setRx rx).output (.frameOut (frameOutOf rx payload))) =
      .next (u.setRx rx) := by
    rw [hf]
    exact dispatch_setRx rx hd
  exact completeFrame_of_dispatch hp' hd'

/-- A transition reads what the frame in progress has written alone, and writes the same of it. -/
theorem runTransition_sameFrame {op : RxOp} {b : Byte} {s t : State} {rx : RxContext} (hrx : s.rx.SameFrame rx)
    (h : runTransition op b s = .next t) :
    ∃ rx', runTransition op b (s.setRx rx) = .next (t.setRx rx') ∧ t.rx.SameFrame rx' := by
  obtain ⟨hr, ht⟩ := runTransition_eq_next h
  have hr' : (s.setRx rx).Ready := ⟨hr.wasReset, hr.notBusy⟩
  simp only [← exec_rxInstr]
  cases op with
  | waitSof =>
    obtain ⟨hst, rfl⟩ := ht
    exact ⟨_, exec_rxWaitSof hr' (hrx.1.trans hst), rfl, trivial⟩
  | waitSkip =>
    obtain ⟨hst, hb, rfl⟩ := ht
    exact ⟨rx, exec_rxWaitSkip hr' (hrx.1.trans hst) hb, hrx⟩
  | id =>
    obtain ⟨hst, rfl⟩ := ht
    exact ⟨_, exec_rxId hr' b (hrx.1.trans hst), rfl, rfl⟩
  | lenZero =>
    obtain ⟨hst, rfl⟩ := ht
    obtain ⟨hst', hid⟩ : _ ∧ _ := by simpa only [RxContext.SameFrame, hst] using hrx
    exact ⟨_, exec_rxLenZero hr' hst', rfl, hid, rfl, nofun⟩
  | lenOk =>
    obtain ⟨hst, hb, rfl⟩ := ht
    obtain ⟨hst', hid⟩ : _ ∧ _ := by simpa only [RxContext.SameFrame, hst] using hrx
    exact ⟨_, exec_rxLenOk hr' hst' hb, rfl, hid, rfl, rfl, nofun⟩
  | lenOver =>
    obtain ⟨hst, hb, rfl⟩ := ht
    exact ⟨_, exec_rxLenOver hr' (hrx.1.trans hst) hb, rfl, trivial⟩
  | payMore =>
    obtain ⟨hst, hg, happ⟩ := ht
    obtain ⟨-, rfl⟩ := appendByte_eq_next happ
    obtain ⟨hst', hid, hlen, hidx, hbuf⟩ : _ ∧ _ ∧ _ ∧ _ ∧ _ := by
      simpa only [RxContext.SameFrame, hst] using hrx
    have hnext : (s.rx.idx + 1).toNat = s.rx.idx.toNat + 1 :=
      toNat_add_one_of_lt (by have := payloadMore_eq_true.1 hg; omega)
    have hbuf' := hnext ▸ hbuf.write b
    rw [← hlen, ← hidx] at hg
    exact ⟨_, exec_rxPayMore hr' b hst' hg, rfl, hid, hlen, by simp [hidx], by simpa [hidx] using hbuf'⟩
  | payLast =>
    obtain ⟨hst, hg, happ⟩ := ht
    obtain ⟨-, rfl⟩ := appendByte_eq_next happ
    obtain ⟨hst', hid, hlen, hidx, hbuf⟩ : _ ∧ _ ∧ _ ∧ _ ∧ _ := by
      simpa only [RxContext.SameFrame, hst] using hrx
    have hbuf' := payloadLast_eq_true.1 hg ▸ hbuf.write b
    rw [← hlen, ← hidx] at hg
    exact ⟨_, exec_rxPayLast hr' b hst' hg, rfl, hid, hlen, by simpa [hidx] using hbuf'⟩
  | csum =>
    obtain ⟨hst, rfl⟩ := ht
    obtain ⟨hst', hid, hlen, hbuf⟩ : _ ∧ _ ∧ _ ∧ _ := by simpa only [RxContext.SameFrame, hst] using hrx
    exact ⟨_, exec_rxCsum hr' b hst', rfl, hid, hlen, rfl, hbuf⟩
  | eofOk =>
    obtain ⟨hst, hdone⟩ := ht
    obtain ⟨hst', hid, hlen, hcsum, hbuf⟩ : _ ∧ _ ∧ _ ∧ _ ∧ _ := by
      simpa only [RxContext.SameFrame, hst] using hrx
    refine ⟨_, (exec_rxEofOk hr' hst').trans (completeFrame_setRx hid hlen hcsum hbuf hdone), ?_⟩
    obtain ⟨_, _, -, -, rfl⟩ := completeFrame_eq_next hdone
    exact ⟨rfl, trivial⟩
  | eofBad =>
    obtain ⟨hst, hb, rfl⟩ := ht
    exact ⟨_, exec_rxEofBad hr' (hrx.1.trans hst) hb, rfl, trivial⟩

theorem rxByte_sameFrame {b : Byte} {s t : State} {rx : RxContext} (hrx : s.rx.SameFrame rx)
    (h : rxByte b s = .next t) : ∃ rx', rxByte b (s.setRx rx) = .next (t.setRx rx') ∧ t.rx.SameFrame rx' := by
  obtain ⟨op, hd, hop⟩ := rxByte_eq_next h
  rw [rxByte_of_decode (s := s.setRx rx) ((hrx.decodeRx_eq s.cfg b).trans hd)]
  exact runTransition_sameFrame hrx hop

theorem feed_sameFrame {bytes : List Byte} {s t : State} {rx : RxContext} (hrx : s.rx.SameFrame rx)
    (h : feed bytes s = .next t) : ∃ rx', feed bytes (s.setRx rx) = .next (t.setRx rx') ∧ t.rx.SameFrame rx' := by
  induction bytes generalizing s rx with
  | nil =>
    obtain rfl : s = t := Host.Outcome.next.inj h
    exact ⟨rx, rfl, hrx⟩
  | cons b bytes ih =>
    obtain ⟨u, hb, hrest⟩ := feed_cons_eq_next h
    obtain ⟨rx', hb', hrx'⟩ := rxByte_sameFrame hrx hb
    rw [feed_cons_of_next hb']
    exact ih hrx' hrest

/-- Settles O25: in `WaitForSOF` no frame is in progress, so any two contexts hold the same of it, and every byte keeps
them so. -/
theorem staleRegistersAreNeverRead : Obligations.StaleRegistersAreNeverRead := by
  intro s t stale bytes hst hstale h
  have hrx : s.rx.SameFrame stale := ⟨hstale.trans hst.symm, by simp only [hst]⟩
  obtain ⟨rx, hfeed, hstate, -⟩ := feed_sameFrame hrx h
  exact ⟨rx, hfeed, hstate⟩

end Sys2Proof.Machine

/-! `Encode` by the sink's answer (42_encoder.md R140, R141, R145): the frame is sent where the sink reports, and where it
does not, the `Encode` and all that contains it has no successor. -/

namespace Sys2Proof.Machine

/-- An operation that is one `Encode` the encoder can take sends its frame where the sink reports. -/
theorem sends_of_exec_eq_encodeCall {i : Instr} {id : Byte} {payload : List Byte} {s : State}
    (hi : exec i s = encodeCall id payload s) (hp : payload.length ≤ 254) (hb : s.txBusy = false)
    (hs : s.SinkReports) : Sends i (frameBytes s.cfg id payload) s := by
  obtain ⟨hlong, -⟩ | ⟨-, hbusy, -⟩ | ⟨-, -, hnever, -⟩ |
    ⟨-, -, -, status, t, hsend, hout, hgiven, hsame, hsink, henc⟩ := encodeSend_cases id payload s
  · omega
  · simp [hb] at hbusy
  · exact absurd hs hnever
  · have hnext : exec i s = .next (t.output (.encodeStatus status)) := by simp [hi, encodeCall, hsend]
    exact ⟨status, _, hnext, by simp [hout], hgiven, hsame.trans (SameBlock_output ..), hsink, henc⟩

/-- Settles O30: `ENCODE` is one `Encode`, and the frame is written out as `frameBytes` builds it. -/
theorem encodeSendsTheFrame : Obligations.EncodeSendsTheFrame :=
  fun _ _ _ hp hb hs => sends_of_exec_eq_encodeCall rfl hp hb hs

/-- An `Encode` the encoder can take stalls where the sink never reports (R145). -/
theorem encodeSend_stalls (id : Byte) {payload : List Byte} {s : State} (hp : payload.length ≤ 254)
    (hb : s.txBusy = false) (hs : ¬ s.SinkReports) : encodeSend id payload s = .fault .sinkNeverReports := by
  obtain ⟨hlong, -⟩ | ⟨-, hbusy, -⟩ | ⟨-, -, -, hstall⟩ | ⟨-, -, hreports, -⟩ := encodeSend_cases id payload s
  · omega
  · simp [hb] at hbusy
  · exact hstall
  · exact absurd hreports hs

theorem encodeCall_stalls (id : Byte) {payload : List Byte} {s : State} (hp : payload.length ≤ 254)
    (hb : s.txBusy = false) (hs : ¬ s.SinkReports) : encodeCall id payload s = .fault .sinkNeverReports := by
  simp [encodeCall, encodeSend_stalls id hp hb hs]

theorem respond_stalls (id : Byte) {payload : List Byte} {s : State} (hp : payload.length ≤ 254)
    (hb : s.txBusy = false) (hs : ¬ s.SinkReports) : respond id payload s = .fault .sinkNeverReports := by
  simp [respond, encodeSend_stalls id hp hb hs]

/-- Every branch but the two drops of the length gate requests an `Encode` (R171), and stalls in it. -/
theorem runBranch_stalls {op : DispOp} {s : State} (hmotors : op ≠ .setMotorsBadLen) (hsteps : op ≠ .moveStepsBadLen)
    (hb : s.txBusy = false) (hs : ¬ s.SinkReports) : runBranch op s = .fault .sinkNeverReports := by
  cases op with
  | setMotorsBadLen => exact absurd rfl hmotors
  | moveStepsBadLen => exact absurd rfl hsteps
  | badCsum | ping | unknown => exact respond_stalls (s := s) _ (by simp) hb hs
  | setMotors | resetEncoders | moveSteps => exact respond_stalls (s := s.output _) _ (by simp) hb hs
  | getEncoders =>
    obtain ⟨hsame, -, hsink, -⟩ := askEncoders_same (s.output (.call .getEncoders))
    have hs' : ¬ (askEncoders (s.output (.call .getEncoders))).2.SinkReports := by
      rw [State.SinkReports, hsink]
      exact hs
    exact respond_stalls _ ((pair32Bytes_length ..).le.trans (by decide)) (hsame.txBusy.trans hb) hs'

/-- Every branch the dispatcher's decode selects: the verdict, the id and, for SetMotors and MoveSteps, the length are
those of the branch (R161 to R169). -/
theorem decodeDispatch_eq_ok {c : Config} {f : FrameOut} {op : DispOp} (h : decodeDispatch c f = .ok op) :
    match op with
    | .badCsum => f.csumOk = false
    | .setMotors _ _ => f.csumOk = true ∧ f.id = c.cmdSetMotors ∧ f.len = 4
    | .setMotorsBadLen => f.csumOk = true ∧ f.id = c.cmdSetMotors ∧ f.len ≠ 4
    | .getEncoders => f.csumOk = true ∧ f.id = c.cmdGetEncoders
    | .resetEncoders => f.csumOk = true ∧ f.id = c.cmdResetEncoders
    | .ping => f.csumOk = true ∧ f.id = Config.cmdPing
    | .moveSteps _ _ => f.csumOk = true ∧ f.id = c.cmdMoveSteps ∧ f.len = 8
    | .moveStepsBadLen => f.csumOk = true ∧ f.id = c.cmdMoveSteps ∧ f.len ≠ 8
    | .unknown => f.csumOk = true ∧
        f.id ∉ [c.cmdSetMotors, c.cmdGetEncoders, c.cmdResetEncoders, Config.cmdPing, c.cmdMoveSteps] := by
  cases hok : f.csumOk with
  | false =>
    obtain rfl : .badCsum = op := by simpa [decodeDispatch, hok] using h
    rfl
  | true =>
    unfold decodeDispatch at h
    split_ifs at h with hbad hmotors hlen hget hreset hping hsteps hlen
    · simp [hok] at hbad
    · split at h <;> cases h
      exact ⟨rfl, hmotors, hlen⟩
    · cases h
      exact ⟨rfl, hmotors, hlen⟩
    · cases h
      exact ⟨rfl, hget⟩
    · cases h
      exact ⟨rfl, hreset⟩
    · cases h
      exact ⟨rfl, hping⟩
    · split at h <;> cases h
      exact ⟨rfl, hsteps, hlen⟩
    · cases h
      exact ⟨rfl, hsteps, hlen⟩
    · cases h
      exact ⟨rfl, by simpa [hmotors, hget, hreset, hsteps] using hping⟩

/-- The dispatch of a `FrameOut` that the length gate does not drop stalls where the sink never reports. -/
theorem dispatch_stalls {f : FrameOut} {s : State} (hf : f.payload.length = f.len.toNat)
    (hsent : ¬ silentlyDropped s.cfg f) (hb : s.txBusy = false) (hs : ¬ s.SinkReports) :
    dispatch f s = .fault .sinkNeverReports := by
  obtain ⟨op, hd⟩ := decodeDispatch_total s.cfg f hf
  rw [dispatch_of_decode hd]
  refine runBranch_stalls ?_ ?_ hb hs
  · rintro rfl
    obtain ⟨hok, hgate⟩ := decodeDispatch_eq_ok hd
    exact hsent ⟨hok, .inl hgate⟩
  · rintro rfl
    obtain ⟨hok, hgate⟩ := decodeDispatch_eq_ok hd
    exact hsent ⟨hok, .inr hgate⟩

/-- A completed frame stalls in its dispatch. -/
theorem completeFrame_stalls {s : State} {payload : List Byte} (hlen : payload.length = s.rx.len.toNat)
    (hholds : s.rx.buf.Holds payload) (hsent : ¬ silentlyDropped s.cfg (frameOutOf s.rx payload))
    (hb : s.txBusy = false) (hs : ¬ s.SinkReports) : completeFrame s = .fault .sinkNeverReports := by
  have hp : readPayload s = .ok payload := by
    rw [readPayload, ← hlen]
    exact memReadList_of_holds hholds (hlen.trans_le (Nat.le_of_lt_succ s.rx.len.isLt))
  have hd : dispatch (frameOutOf s.rx payload) (s.output (.frameOut (frameOutOf s.rx payload))) =
      .fault .sinkNeverReports :=
    dispatch_stalls (s := s.output _) hlen hsent hb hs
  simp [completeFrame, hp, hd]

/-- A byte that stops with a fault stops the feed that begins with it. -/
theorem feed_cons_of_fault {b : Byte} {s : State} {e : Fault} (h : rxByte b s = .fault e) (rest : List Byte) :
    feed (b :: rest) s = .fault e := by
  simp [feed, h]

/-- Settles O32: `ENCODE` is one `Encode`; and `EOF` in `ReadEof` completes the frame, whose dispatch stalls in one. -/
theorem sinkThatNeverReportsStalls : Obligations.SinkThatNeverReportsStalls := by
  refine ⟨fun s id payload hp hb hs => encodeCall_stalls id hp hb hs,
    fun s payload hr hs hst hlen hholds hsent => ?_⟩
  have hbyte : rxByte s.cfg.eof s = .fault .sinkNeverReports :=
    (rxByte_and_exec_of_decode (op := .eofOk) (decodeRx_eq_ok_iff.2 ⟨hst, rfl⟩)
      ((exec_rxEofOk hr hst).trans (completeFrame_stalls hlen hholds hsent hr.notBusy hs))).1
  exact ⟨hbyte, feed_cons_of_fault hbyte⟩

end Sys2Proof.Machine

/-! The frame in the dispatcher (43_dispatcher.md R160 to R171): what the step of its `EOF` hands out, and what the
dispatch adds. -/

namespace Sys2Proof.Machine

/-- The dispatch of a `FrameOut` after it is emitted leaves the block as it was, and adds no other `FrameOut`, at most one
frame handed to the sink and at most one callback (R171). -/
theorem dispatch_output_frameOut {f : FrameOut} {s u : State} (h : dispatch f (s.output (.frameOut f)) = .next u) :
    s.SameBlock u ∧ ∃ rest, u.outputs = s.outputs ++ .frameOut f :: rest ∧
      rest.countP Output.isFrameOut = 0 ∧ rest.countP Output.isSinkSend ≤ 1 ∧ rest.countP Output.isCall ≤ 1 := by
  obtain ⟨op, -, hop⟩ := dispatch_eq_next h
  obtain ⟨hsame, rest, hout, hframe, hsink, hcall, -⟩ := runBranch_eq_next hop
  exact ⟨(SameBlock_output ..).trans hsame, rest, by simp [hout], hframe, hsink, hcall⟩

/-- The identifier of MoveSteps is none of the four the dispatcher tests before it (R12). -/
theorem cmdMoveSteps_ne_of_wf {c : Config} (hc : c.Wf) :
    c.cmdMoveSteps ≠ c.cmdSetMotors ∧ c.cmdMoveSteps ≠ c.cmdGetEncoders ∧ c.cmdMoveSteps ≠ c.cmdResetEncoders ∧
      c.cmdMoveSteps ≠ Config.cmdPing := by
  obtain ⟨-, hids, -⟩ := hc
  have hsplit : c.ids = [c.cmdSetMotors, c.cmdGetEncoders, c.cmdResetEncoders, Config.cmdPing] ++
      c.cmdMoveSteps :: [c.cmdGetMode, c.msgEncoderData, c.msgModeData, c.msgAck, c.msgError, c.msgPong] := rfl
  have hnot := List.disjoint_of_nodup_append (hsplit ▸ hids)
  refine ⟨?_, ?_, ?_, ?_⟩ <;> exact fun h => hnot (h ▸ by simp) (List.mem_cons_self ..)

theorem decodeDispatch_setMotorsBadLen {c : Config} {f : FrameOut} (hok : f.csumOk = true)
    (hid : f.id = c.cmdSetMotors) (hlen : f.len ≠ 4) : decodeDispatch c f = .ok .setMotorsBadLen := by
  rw [decodeDispatch, if_neg (by simp [hok]), if_pos hid, if_neg hlen]

theorem decodeDispatch_moveStepsBadLen {c : Config} {f : FrameOut} (hc : c.Wf) (hok : f.csumOk = true)
    (hid : f.id = c.cmdMoveSteps) (hlen : f.len ≠ 8) : decodeDispatch c f = .ok .moveStepsBadLen := by
  obtain ⟨hmotors, hget, hreset, hping⟩ := hid ▸ cmdMoveSteps_ne_of_wf hc
  rw [decodeDispatch, if_neg (by simp [hok]), if_neg hmotors, if_neg hget, if_neg hreset, if_neg hping, if_pos hid,
    if_neg hlen]

/-- The two drops of the length gate change nothing at all (R169). -/
theorem dispatch_of_silentlyDropped {f : FrameOut} {s : State} (hc : s.cfg.Wf) (h : silentlyDropped s.cfg f) :
    dispatch f s = .next s := by
  obtain ⟨hok, ⟨hid, hlen⟩ | ⟨hid, hlen⟩⟩ := h
  · exact dispatch_of_decode (decodeDispatch_setMotorsBadLen hok hid hlen)
  · exact dispatch_of_decode (decodeDispatch_moveStepsBadLen hc hok hid hlen)

/-- The cells the buffer holds are the payload `RX.EOF.OK` reads (R121). -/
theorem readPayload_of_holds {s : State} {payload : List Byte} (hlen : payload.length = s.rx.len.toNat)
    (hholds : s.rx.buf.Holds payload) : readPayload s = .ok payload := by
  rw [readPayload, ← hlen]
  exact memReadList_of_holds hholds (hlen.trans_le (Nat.le_of_lt_succ s.rx.len.isLt))

/-- `EOF` in `ReadEof` answers what the dispatch of the frame answers, with `rx.state` written after it (R121, R160). -/
theorem rxByte_eof_of_dispatch {s u : State} {payload : List Byte} (hr : s.Ready) (hst : s.rx.state = .readEof)
    (hlen : payload.length = s.rx.len.toNat) (hholds : s.rx.buf.Holds payload)
    (hd : dispatch (frameOutOf s.rx payload) (s.output (.frameOut (frameOutOf s.rx payload))) = .next u) :
    rxByte s.cfg.eof s = .next (u.setRxState .waitForSof) ∧ exec .rxEofOk s = .next (u.setRxState .waitForSof) :=
  rxByte_and_exec_of_decode (op := .eofOk) (decodeRx_eq_ok_iff.2 ⟨hst, rfl⟩)
    ((exec_rxEofOk hr hst).trans (completeFrame_of_dispatch (readPayload_of_holds hlen hholds) hd))

/-- Where the dispatch left the context to the step, the step writes `rx.state` of the context it began with (D31). -/
theorem setRxState_of_rx_eq {s u : State} (h : u.rx = s.rx) (st : RxState) :
    u.setRxState st = { u with rx := { s.rx with state := st } } := by
  simp only [State.setRxState, State.setRx, h]

/-- Settles O21: the dispatch answers a next state where the sink reports, and the very same state where the length gate
drops the frame; either way it leaves the context to the step. -/
theorem rxEofOkHandsOutTheFrame : Obligations.RxEofOkHandsOutTheFrame := by
  intro s payload f hr hst hlen hholds hf hsent
  obtain ⟨u, hd⟩ : ∃ u, dispatch f (s.output (.frameOut f)) = .next u := by
    obtain hs | ⟨hc, hdrop⟩ := hsent
    · exact dispatch_total (s := s.output _) (by rw [hf, hlen]) hr.notBusy hs
    · exact ⟨_, dispatch_of_silentlyDropped (s := s.output _) hc hdrop⟩
  obtain ⟨hsame, rest, hout, hframe, -⟩ := dispatch_output_frameOut hd
  obtain rfl : f = frameOutOf s.rx payload := hf
  obtain ⟨hbyte, hrow⟩ := rxByte_eof_of_dispatch hr hst hlen hholds hd
  have hu := setRxState_of_rx_eq hsame.rx .waitForSof
  exact ⟨u, rest, hd, hbyte.trans (congrArg _ hu), hrow.trans (congrArg _ hu), hsame.rx, hsame.sameButContext, hout,
    by simpa [List.countP_eq_zero] using hframe⟩

/-- Every transition but `RX.EOF.OK` has no output. -/
theorem runTransition_outputs {op : RxOp} {b : Byte} {s t : State} (hop : op ≠ .eofOk)
    (h : runTransition op b s = .next t) : t.outputs = s.outputs := by
  obtain ⟨-, ht⟩ := runTransition_eq_next h
  cases op with
  | waitSof | id | lenZero | csum =>
    obtain ⟨-, rfl⟩ := ht
    rfl
  | waitSkip | lenOk | lenOver | eofBad =>
    obtain ⟨-, -, rfl⟩ := ht
    rfl
  | payMore | payLast =>
    obtain ⟨-, -, happ⟩ := ht
    obtain ⟨-, rfl⟩ := appendByte_eq_next happ
    rfl
  | eofOk => exact absurd rfl hop

/-- Settles O28: of the transitions `RX.EOF.OK` alone has outputs, the `FrameOut` of the cells it reads and what the
dispatch adds. -/
theorem oneFrameInAtMostOneFrameOut : Obligations.OneFrameInAtMostOneFrameOut := by
  intro s t b h
  obtain ⟨op, hd, hop⟩ := rxByte_eq_next h
  by_cases heof : op = .eofOk
  · subst heof
    obtain ⟨hst, hb⟩ : s.rx.state = .readEof ∧ b = s.cfg.eof := decodeRx_eq_ok_iff.1 hd
    obtain ⟨-, -, hdone⟩ := runTransition_eq_next hop
    obtain ⟨payload, u, hp, hdisp, rfl⟩ := completeFrame_eq_next hdone
    obtain ⟨hlen, -⟩ := memReadList_eq_ok.1 hp
    obtain ⟨-, rest, hout, hcounts⟩ := dispatch_output_frameOut hdisp
    exact .inr ⟨hst, hb, _, rest, hout, hlen, hcounts⟩
  · exact .inl (runTransition_outputs heof hop)

end Sys2Proof.Machine

/-! A frame, whole, in a ready receiver in `WaitForSOF` (41_receiver.md R112 to R121): the context its bytes up to the
checksum leave, and the dispatch of its `FrameOut` on the last. -/

namespace Sys2Proof.Machine

/-- The buffer after the bytes of a payload came in order, the first of them in cell `a`. -/
def Memory.writeList (m : Memory) (a : Nat) : List Byte → Memory
  | [] => m
  | b :: bytes => Memory.writeList (m.write a b) (a + 1) bytes

/-- A cell before the first or after the last of them is as it was. -/
theorem Memory.read_writeList_of_outside (m : Memory) {a x : Nat} (bytes : List Byte)
    (h : x < a ∨ a + bytes.length ≤ x) : (m.writeList a bytes).read x = m.read x := by
  induction bytes generalizing m a with
  | nil => rfl
  | cons b bytes ih =>
    rw [List.length_cons] at h
    calc ((m.write a b).writeList (a + 1) bytes).read x = (m.write a b).read x := ih (m.write a b) (by omega)
      _ = m.read x := Memory.read_write_of_ne m b (by omega)

/-- Byte `k` of them is in the `k`-th cell. -/
theorem Memory.read_writeList (m : Memory) (a : Nat) {bytes : List Byte} {k : Nat} (h : k < bytes.length) :
    (m.writeList a bytes).read (a + k) = some bytes[k] := by
  induction bytes generalizing m a k with
  | nil => cases h
  | cons b bytes ih =>
    cases k with
    | zero =>
      calc ((m.write a b).writeList (a + 1) bytes).read a = (m.write a b).read a :=
            Memory.read_writeList_of_outside _ bytes (by omega)
        _ = some b := Memory.read_write_self m a b
    | succ k =>
      have hk : k < bytes.length := Nat.lt_of_succ_lt_succ h
      have hcell := ih (m.write a b) (a + 1) hk
      rwa [Nat.add_right_comm] at hcell

theorem Memory.holds_writeList (m : Memory) (payload : List Byte) : (m.writeList 0 payload).Holds payload :=
  fun k h => by simpa using m.read_writeList 0 h

/-- The context in `ReadEof`, the bytes of a frame of `(id, payload)` received up to a checksum byte `csum`: an empty
payload leaves the index as it was (R115). -/
def RxContext.framed (rx : RxContext) (id csum : Byte) (payload : List Byte) : RxContext where
  state := .readEof
  id := id
  len := lengthByte payload
  idx := if payload = [] then rx.idx else lengthByte payload
  csum := csum
  buf := rx.buf.writeList 0 payload

theorem State.Ready.setRx {s : State} (hr : s.Ready) (rx : RxContext) : (s.setRx rx).Ready :=
  ⟨hr.wasReset, hr.notBusy⟩

section
variable {s : State} (hr : s.Ready)
include hr

/-- In `ReadPayload` the bytes still missing are appended from cell `rx.idx` on, and complete the payload (R118, R119). -/
theorem feed_readPayload {a : Nat} (b : Byte) (bytes : List Byte) (hst : s.rx.state = .readPayload)
    (ha : s.rx.idx.toNat = a) (hlen : a + (b :: bytes).length = s.rx.len.toNat) :
    feed (b :: bytes) s = .next (s.setRx
      { s.rx with buf := s.rx.buf.writeList a (b :: bytes), idx := s.rx.len, state := .readChecksum }) := by
  induction bytes generalizing s a b with
  | nil =>
    have hg : s.rx.idx.toNat + 1 = s.rx.len.toNat := ha ▸ hlen
    have hidx : s.rx.idx + 1 = s.rx.len := BitVec.eq_of_toNat_eq (by rw [toNat_add_one_of_lt (by omega), hg])
    obtain ⟨hb, -⟩ := rxByte_and_exec_of_decode (op := .payLast) (decodeRx_eq_ok_iff.2 ⟨hst, hg⟩)
      (exec_rxPayLast hr b hst (payloadLast_eq_true.2 hg))
    rw [hidx, ha] at hb
    exact feed_cons_of_next hb
  | cons b' bytes ih =>
    simp only [List.length_cons] at hlen
    have hg : s.rx.idx.toNat + 1 < s.rx.len.toNat := by omega
    have hidx : (s.rx.idx + 1).toNat = a + 1 := by rw [toNat_add_one_of_lt (by omega), ha]
    have hlen' : a + 1 + (b' :: bytes).length = s.rx.len.toNat := by rw [List.length_cons]; omega
    obtain ⟨hb, -⟩ := rxByte_and_exec_of_decode (op := .payMore) (decodeRx_eq_ok_iff.2 ⟨hst, hg⟩)
      (exec_rxPayMore hr b hst (payloadMore_eq_true.2 hg))
    rw [ha] at hb
    exact (feed_cons_of_next hb).trans (ih (hr.setRx _) b' rfl hidx hlen')

/-- In `ReadLength` the length byte and the payload of its size lead to `ReadChecksum` (R115, R116, R118, R119). -/
theorem feed_readLength {payload : List Byte} (hst : s.rx.state = .readLength) (hp : payload.length ≤ 254) :
    feed (lengthByte payload :: payload) s =
      .next (s.setRx { s.rx.framed s.rx.id s.rx.csum payload with state := .readChecksum }) := by
  have hlen := lengthByte_toNat hp
  cases payload with
  | nil =>
    obtain ⟨hb, -⟩ := rxByte_and_exec_of_decode (b := 0) (op := .lenZero) (decodeRx_eq_ok_iff.2 ⟨hst, rfl⟩)
      (exec_rxLenZero hr hst)
    exact feed_cons_of_next hb
  | cons b bytes =>
    have hok : 0 < (lengthByte (b :: bytes)).toNat ∧ (lengthByte (b :: bytes)).toNat < 255 := by
      rw [List.length_cons] at hp hlen
      omega
    obtain ⟨hb, -⟩ := rxByte_and_exec_of_decode (op := .lenOk) (decodeRx_eq_ok_iff.2 ⟨hst, hok⟩)
      (exec_rxLenOk hr hst (lengthAccepted_eq_true.2 hok))
    exact (feed_cons_of_next hb).trans
      (feed_readPayload (hr.setRx _) b bytes rfl rfl ((Nat.zero_add _).trans hlen.symm))

/-- From `WaitForSOF` the bytes of a frame up to its checksum byte, whatever that is, lead to `ReadEof`. -/
theorem feed_untilEof (id csum : Byte) {payload : List Byte} (hst : s.rx.state = .waitForSof)
    (hp : payload.length ≤ 254) :
    feed ([s.cfg.sof, id, lengthByte payload] ++ payload ++ [csum]) s =
      .next (s.setRx (s.rx.framed id csum payload)) := by
  let sId := s.setRx { s.rx with id := id, state := .readLength }
  let sSum := s.setRx { s.rx.framed id s.rx.csum payload with state := .readChecksum }
  have hsof := rxByte_waitForSof_sof hr hst
  obtain ⟨hid, -⟩ := rxByte_and_exec_of_decode (s := s.setRxState .readId) (b := id) (op := .id)
    (decodeRx_eq_ok_iff.2 rfl) (exec_rxId (s := s.setRxState .readId) (hr.setRx _) id rfl)
  have hlen := feed_readLength (s := sId) (hr.setRx _) rfl hp
  obtain ⟨hcsum, -⟩ := rxByte_and_exec_of_decode (s := sSum) (b := csum) (op := .csum)
    (decodeRx_eq_ok_iff.2 rfl) (exec_rxCsum (s := sSum) (hr.setRx _) csum rfl)
  calc feed ([s.cfg.sof, id, lengthByte payload] ++ payload ++ [csum]) s
      = feed ([id, lengthByte payload] ++ payload ++ [csum]) (s.setRxState .readId) := feed_cons_of_next hsof
    _ = feed (lengthByte payload :: payload ++ [csum]) sId := feed_cons_of_next hid
    _ = feed [csum] sSum := feed_append_of_next hlen
    _ = .next (s.setRx (s.rx.framed id csum payload)) := feed_cons_of_next hcsum

end

theorem frameBytes_eq_concat_eof (c : Config) (id : Byte) (payload : List Byte) :
    frameBytes c id payload =
      [c.sof, id, lengthByte payload] ++ payload ++ [checksum id (lengthByte payload) payload] ++ [c.eof] := by
  simp [frameBytes]

/-- A frame received with its own checksum is handed out as good (R104, R123). -/
theorem frameOutOf_framed (rx : RxContext) (id : Byte) (payload : List Byte) :
    frameOutOf (rx.framed id (checksum id (lengthByte payload) payload) payload) payload = goodFrameOut id payload := by
  simp [frameOutOf, RxContext.framed, goodFrameOut, csumOk]

/-- The state in which the frame of `(id, payload)`, received whole from `s`, is dispatched (R121, R160). -/
def State.handedOut (s : State) (id : Byte) (payload : List Byte) : State :=
  (s.setRx (s.rx.framed id (checksum id (lengthByte payload) payload) payload)).output
    (.frameOut (goodFrameOut id payload))

/-- In the context of a frame that came whole, with whatever checksum byte, `EOF` answers what the dispatch answers. -/
theorem rxByte_eof_framed {s u : State} {id csum : Byte} {payload : List Byte} (hr : s.Ready)
    (hp : payload.length ≤ 254)
    (hd : dispatch (frameOutOf (s.rx.framed id csum payload) payload)
      ((s.setRx (s.rx.framed id csum payload)).output
        (.frameOut (frameOutOf (s.rx.framed id csum payload) payload))) = .next u) :
    rxByte s.cfg.eof (s.setRx (s.rx.framed id csum payload)) = .next (u.setRxState .waitForSof) :=
  (rxByte_eof_of_dispatch (s := s.setRx (s.rx.framed id csum payload)) (hr.setRx _) rfl (lengthByte_toNat hp).symm
    (Memory.holds_writeList s.rx.buf payload) hd).1

/-- The frame of `(id, payload)`, whole, from `WaitForSOF`, answers what the dispatch of its `FrameOut` answers. -/
theorem feed_frameBytes_of_dispatch {s u : State} {id : Byte} {payload : List Byte} (hr : s.Ready)
    (hst : s.rx.state = .waitForSof) (hp : payload.length ≤ 254)
    (hd : dispatch (goodFrameOut id payload) (s.handedOut id payload) = .next u) :
    rxByte s.cfg.eof (s.setRx (s.rx.framed id (checksum id (lengthByte payload) payload) payload)) =
      .next (u.setRxState .waitForSof) ∧
    feed (frameBytes s.cfg id payload) s = .next (u.setRxState .waitForSof) := by
  rw [State.handedOut, ← frameOutOf_framed s.rx] at hd
  have heof := rxByte_eof_framed hr hp hd
  rw [frameBytes_eq_concat_eof]
  exact ⟨heof, (feed_append_of_next (feed_untilEof hr id _ hst hp)).trans (feed_cons_of_next heof)⟩

/-- Settles O29: the bytes before the last lead to `ReadEof` with the payload in its cells, and on the last the frame is
handed out as good and dispatched. -/
theorem decodeOfEncodedFrameIsExact : Obligations.DecodeOfEncodedFrameIsExact := by
  intro s id payload f hr hs hst hp hf
  obtain rfl : f = goodFrameOut id payload := hf
  have hbefore := feed_untilEof hr id (checksum id (lengthByte payload) payload) hst hp
  let before := s.setRx (s.rx.framed id (checksum id (lengthByte payload) payload) payload)
  obtain ⟨u, hd⟩ : ∃ u, dispatch (goodFrameOut id payload) (s.handedOut id payload) = .next u :=
    dispatch_total (lengthByte_toNat hp).symm hr.notBusy hs
  obtain ⟨hlast, hfeed⟩ := feed_frameBytes_of_dispatch hr hst hp hd
  obtain ⟨hsame, rest, hout, hframe, -⟩ := dispatch_output_frameOut (s := before) hd
  have hinit : feed (frameBytes s.cfg id payload).dropLast s = .next before := by
    rw [frameBytes_eq_concat_eof, List.dropLast_concat]
    exact hbefore
  exact ⟨before, u, _, rest, hinit, rfl, hd, hlast, hfeed, setRxState_of_rx_eq hsame.rx _, hout,
    by simpa [List.countP_eq_zero] using hframe⟩

end Sys2Proof.Machine

/-! The branches of the dispatcher where the sink reports (43_dispatcher.md R162, R163, R167). -/

namespace Sys2Proof.Machine

/-- A branch that is selected and answers a next state with the outputs `new` is what the dispatch answers; of the block
and the environment's answers it leaves what every branch leaves. -/
theorem branches_of_decode {f : FrameOut} {op : DispOp} {new : List Output} {s t : State}
    (hd : decodeDispatch s.cfg f = .ok op) (hop : runBranch op s = .next t) (hout : t.outputs = s.outputs ++ new) :
    Branches f op.instr new s := by
  obtain ⟨hsame, new', hout', -, -, -, -, hsink, henc⟩ := runBranch_eq_next hop
  obtain rfl : new' = new := List.append_cancel_left (hout'.symm.trans hout)
  exact ⟨t, (dispatch_of_decode hd).trans hop, (exec_dispInstr op s).trans hop, hout, hsame, hsink, henc⟩

/-- A branch that is one response. -/
theorem branches_of_respond {f : FrameOut} {op : DispOp} {id : Byte} {payload : List Byte} {s : State}
    (hd : decodeDispatch s.cfg f = .ok op) (hop : runBranch op s = respond id payload s) (hp : payload.length ≤ 254)
    (hb : s.txBusy = false) (hs : s.SinkReports) :
    Branches f op.instr [.sinkSend (frameBytes s.cfg id payload)] s := by
  obtain ⟨t, ht, hout, -⟩ := respond_next id payload hp hb hs
  exact branches_of_decode hd (hop.trans ht) hout

/-- A branch that is a callback and then one response. -/
theorem branches_of_call_respond {f : FrameOut} {op : DispOp} {call : Callback} {id : Byte} {payload : List Byte}
    {s : State} (hd : decodeDispatch s.cfg f = .ok op)
    (hop : runBranch op s = respond id payload (s.output (.call call))) (hp : payload.length ≤ 254)
    (hb : s.txBusy = false) (hs : s.SinkReports) :
    Branches f op.instr [.call call, .sinkSend (frameBytes s.cfg id payload)] s := by
  obtain ⟨t, ht, hout, -⟩ := respond_next (s := s.output (.call call)) id payload hp hb hs
  exact branches_of_decode hd (hop.trans ht) (by simp [hout])

theorem decodeDispatch_badCsum {c : Config} {f : FrameOut} (hbad : f.csumOk = false) :
    decodeDispatch c f = .ok .badCsum := by
  rw [decodeDispatch, if_pos hbad]

theorem decodeDispatch_setMotors {c : Config} {f : FrameOut} {b0 b1 b2 b3 : Byte} (hok : f.csumOk = true)
    (hid : f.id = c.cmdSetMotors) (hlen : f.len = 4) (hp : f.payload = [b0, b1, b2, b3]) :
    decodeDispatch c f = .ok (.setMotors (decI16 c.byteOrder b0 b1) (decI16 c.byteOrder b2 b3)) := by
  rw [decodeDispatch, if_neg (by simp [hok]), if_pos hid, if_pos hlen, hp]

theorem decodeDispatch_moveSteps {c : Config} {f : FrameOut} {b0 b1 b2 b3 b4 b5 b6 b7 : Byte} (hc : c.Wf)
    (hok : f.csumOk = true) (hid : f.id = c.cmdMoveSteps) (hlen : f.len = 8)
    (hp : f.payload = [b0, b1, b2, b3, b4, b5, b6, b7]) :
    decodeDispatch c f =
      .ok (.moveSteps (decI32 c.byteOrder b0 b1 b2 b3) (decI32 c.byteOrder b4 b5 b6 b7)) := by
  obtain ⟨hmotors, hget, hreset, hping⟩ := hid ▸ cmdMoveSteps_ne_of_wf hc
  rw [decodeDispatch, if_neg (by simp [hok]), if_neg hmotors, if_neg hget, if_neg hreset, if_neg hping, if_pos hid,
    if_pos hlen, hp]

/-- Settles O35: the verdict is tested first, and the branch is one response. -/
theorem badChecksumIsAnsweredWithError : Obligations.BadChecksumIsAnsweredWithError :=
  fun _ s hb hs hbad => branches_of_respond (s := s) (decodeDispatch_badCsum hbad) rfl (by simp) hb hs

/-- Settles O36: the length selects the branch, a callback and one response, or the one that does nothing. -/
theorem setMotorsCallsThenAcks : Obligations.SetMotorsCallsThenAcks := by
  intro f s hok hid
  exact ⟨fun b0 b1 b2 b3 hb hs hlen hp =>
      branches_of_call_respond (decodeDispatch_setMotors hok hid hlen hp) rfl (by simp) hb hs,
    fun hlen => ⟨dispatch_of_decode (decodeDispatch_setMotorsBadLen hok hid hlen), rfl⟩⟩

/-- Settles O40: as for SetMotors, past the identifiers tested before this one, from which it differs (R12). -/
theorem moveStepsCallsThenAcks : Obligations.MoveStepsCallsThenAcks := by
  intro f s hc hok hid
  exact ⟨fun b0 b1 b2 b3 b4 b5 b6 b7 hb hs hlen hp =>
      branches_of_call_respond (decodeDispatch_moveSteps hc hok hid hlen hp) rfl (by simp) hb hs,
    fun hlen => ⟨dispatch_of_decode (decodeDispatch_moveStepsBadLen hc hok hid hlen), rfl⟩⟩

/-- Settles O34: each message row is one `Encode` of its record. -/
theorem messageFramesAreSent : Obligations.MessageFramesAreSent := by
  intro s hb hs
  have hsend {i : Instr} {id : Byte} {payload : List Byte} (hi : exec i s = encodeCall id payload s)
      (hp : payload.length ≤ 254) : Sends i (frameBytes s.cfg id payload) s := sends_of_exec_eq_encodeCall hi hp hb hs
  exact ⟨hsend rfl (by simp), fun _ => hsend rfl (by simp), fun _ => hsend rfl (by simp), fun _ => hsend rfl (by simp),
    fun v1 v2 => hsend rfl ((pair32Bytes_length s.cfg.byteOrder v1 v2).le.trans (by decide))⟩

end Sys2Proof.Machine

/-! `get_mode` is in the callback interface, and no operation calls it (43_dispatcher.md R173). -/

namespace Sys2Proof.Machine

/-- What happened on the way from `s` to `t` holds no call of `get_mode`. -/
def NoGetMode (s t : State) : Prop := ∃ new, t.outputs = s.outputs ++ new ∧ .call .getMode ∉ new

theorem NoGetMode.of_outputs_eq {s t : State} (h : t.outputs = s.outputs) : NoGetMode s t := ⟨[], by simp [h]⟩

theorem NoGetMode.trans {s t u : State} (h : NoGetMode s t) (k : NoGetMode t u) : NoGetMode s u := by
  obtain ⟨new, hout, hnew⟩ := h
  obtain ⟨new', hout', hnew'⟩ := k
  exact ⟨new ++ new', by rw [hout', hout, List.append_assoc], by simp [hnew, hnew']⟩

theorem runBranch_noGetMode {op : DispOp} {s t : State} (h : runBranch op s = .next t) : NoGetMode s t := by
  obtain ⟨-, new, hout, -, -, -, hnew, -⟩ := runBranch_eq_next h
  exact ⟨new, hout, hnew⟩

theorem runTransition_noGetMode {op : RxOp} {b : Byte} {s t : State} (h : runTransition op b s = .next t) :
    NoGetMode s t := by
  by_cases heof : op = .eofOk
  · subst heof
    obtain ⟨-, -, hdone⟩ := runTransition_eq_next h
    obtain ⟨payload, u, -, hdisp, rfl⟩ := completeFrame_eq_next hdone
    obtain ⟨op, -, hop⟩ := dispatch_eq_next hdisp
    have hframe : NoGetMode s (s.output (.frameOut (frameOutOf s.rx payload))) := ⟨_, rfl, by simp⟩
    exact (hframe.trans (runBranch_noGetMode hop)).trans (.of_outputs_eq rfl)
  · exact .of_outputs_eq (runTransition_outputs heof h)

theorem feed_noGetMode {bytes : List Byte} {s t : State} (h : feed bytes s = .next t) : NoGetMode s t := by
  induction bytes generalizing s with
  | nil =>
    obtain rfl : s = t := Host.Outcome.next.inj h
    exact .of_outputs_eq rfl
  | cons b bytes ih =>
    obtain ⟨u, hb, hrest⟩ := feed_cons_eq_next h
    obtain ⟨op, -, hop⟩ := rxByte_eq_next hb
    exact (runTransition_noGetMode hop).trans (ih hrest)

theorem encodeCall_noGetMode {id : Byte} {payload : List Byte} {s t : State}
    (h : encodeCall id payload s = .next t) : NoGetMode s t := by
  obtain ⟨⟨status, hout⟩, -⟩ := encodeCall_eq_next h
  exact ⟨_, hout, by simp⟩

theorem execChecksum_noGetMode {id length : Byte} {payload : List Byte} {s t : State}
    (h : execChecksum id length payload s = .next t) : NoGetMode s t := by
  unfold execChecksum at h
  split at h
  · obtain rfl := Host.Outcome.next.inj h
    exact ⟨_, rfl, by simp⟩
  · cases h

theorem exec_noGetMode_of_rxStep {i : Instr} {s t : State} (hi : i.format = .rxStep) (h : exec i s = .next t) :
    NoGetMode s t := by
  obtain ⟨op, b, rfl⟩ := exists_rxInstr_of_format hi
  exact runTransition_noGetMode (exec_rxInstr op b s ▸ h)

theorem exec_noGetMode_of_dispatch {i : Instr} {s t : State} (hi : i.format = .dispatch) (h : exec i s = .next t) :
    NoGetMode s t := by
  obtain ⟨op, rfl⟩ := exists_dispInstr_of_format hi
  exact runBranch_noGetMode (exec_dispInstr op s ▸ h)

theorem exec_noGetMode {i : Instr} {s t : State} (h : exec i s = .next t) : NoGetMode s t := by
  cases i with
  | rxWaitSof | rxWaitSkip | rxId | rxLenZero | rxLenOk | rxLenOver | rxPayMore | rxPayLast | rxCsum | rxEofOk
  | rxEofBad => exact exec_noGetMode_of_rxStep rfl h
  | reset =>
    obtain rfl := Host.Outcome.next.inj h
    exact .of_outputs_eq rfl
  | checksum => exact execChecksum_noGetMode h
  | encode | encoderData | modeData | ack | error | pong => exact encodeCall_noGetMode h
  | setMotors | getEncoders | resetEncoders | ping | moveSteps | getMode => exact feed_noGetMode h
  | dispBadCsum | dispSetMotors | dispSetMotorsBadLen | dispGetEncoders | dispResetEncoders | dispPing | dispMoveSteps
  | dispMoveStepsBadLen | dispUnknown => exact exec_noGetMode_of_dispatch rfl h

/-- Settles O42: an operation's outputs are those before it and new ones, none of which calls `get_mode`. -/
theorem getModeIsNeverCalled : Obligations.GetModeIsNeverCalled := by
  intro i s t h hmem
  obtain ⟨new, hout, hnew⟩ := exec_noGetMode h
  rw [hout, List.mem_append] at hmem
  exact hmem.resolve_right hnew

end Sys2Proof.Machine

/-! The fields of a payload record decoded from their bytes (30_encoding.md R78, 43_dispatcher.md R175). -/

namespace Sys2Proof

theorem decI16_i16Bytes (o : ByteOrder) (v : I16) : ∃ b0 b1, i16Bytes o v = [b0, b1] ∧ decI16 o b0 b1 = v := by
  have hparts : v.extractLsb' 8 8 ++ v.extractLsb' 0 8 = v := by
    rw [BitVec.extractLsb'_append_extractLsb'_eq_extractLsb' (start₂ := 8) rfl, BitVec.extractLsb'_eq_self]
  cases o with
  | little | big => exact ⟨_, _, rfl, hparts⟩

theorem decI32_i32Bytes (o : ByteOrder) (v : I32) :
    ∃ b0 b1 b2 b3, i32Bytes o v = [b0, b1, b2, b3] ∧ decI32 o b0 b1 b2 b3 = v := by
  have hparts : v.extractLsb' 24 8 ++ v.extractLsb' 16 8 ++ v.extractLsb' 8 8 ++ v.extractLsb' 0 8 = v := by
    rw [BitVec.extractLsb'_append_extractLsb'_eq_extractLsb' (start₂ := 24) rfl,
      BitVec.extractLsb'_append_extractLsb'_eq_extractLsb' (start₂ := 16) rfl,
      BitVec.extractLsb'_append_extractLsb'_eq_extractLsb' (start₂ := 8) rfl, BitVec.extractLsb'_eq_self]
  cases o with
  | little | big => exact ⟨_, _, _, _, rfl, hparts⟩

end Sys2Proof

/-! The command frames with a payload, whole, from `WaitForSOF` (43_dispatcher.md R163, R167; log entry 9). -/

namespace Sys2Proof.Machine

/-- The frame of `(id, payload)`, whole, from `WaitForSOF`, has the outputs of the branch its `FrameOut` selects, and
leaves the frame in the context. -/
theorem feed_frameBytes_of_branches {s : State} {id : Byte} {payload : List Byte} {i : Instr} {new : List Output}
    (hr : s.Ready) (hst : s.rx.state = .waitForSof) (hp : payload.length ≤ 254)
    (hbr : Branches (goodFrameOut id payload) i new (s.handedOut id payload)) :
    ∃ t, feed (frameBytes s.cfg id payload) s = .next t ∧ s.SameButContext t ∧
      t.outputs = s.outputs ++ .frameOut (goodFrameOut id payload) :: new ∧
      t.rx = { s.rx.framed id (checksum id (lengthByte payload) payload) payload with state := .waitForSof } := by
  obtain ⟨u, hd, -, hout, hsame, -⟩ := hbr
  obtain ⟨-, hfeed⟩ := feed_frameBytes_of_dispatch hr hst hp hd
  have hctx : s.SameButContext (u.setRxState .waitForSof) :=
    (sameButContext_setRx s _).trans
      (((SameBlock_output _ _).trans hsame).sameButContext.trans (sameButContext_setRx u _))
  exact ⟨_, hfeed, hctx, by simp [hout, State.handedOut], by simp [hsame.rx, State.handedOut]⟩

/-- The frame of a command with a payload leaves its fields in the context and the payload in the first cells, every
other cell as it was. -/
theorem feed_frameBytes_payload_of_branches {s : State} {id : Byte} {payload : List Byte} {i : Instr}
    {new : List Output} (hr : s.Ready) (hst : s.rx.state = .waitForSof) (hp : payload.length ≤ 254)
    (hne : payload ≠ []) (hbr : Branches (goodFrameOut id payload) i new (s.handedOut id payload)) :
    ∃ t, feed (frameBytes s.cfg id payload) s = .next t ∧ s.SameButContext t ∧
      t.outputs = s.outputs ++ .frameOut (goodFrameOut id payload) :: new ∧
      t.rx.state = .waitForSof ∧ t.rx.id = id ∧ t.rx.len = lengthByte payload ∧ t.rx.idx = lengthByte payload ∧
      t.rx.csum = checksum id (lengthByte payload) payload ∧ t.rx.buf.Holds payload ∧
      ∀ k, payload.length ≤ k → t.rx.buf.read k = s.rx.buf.read k := by
  obtain ⟨t, hfeed, hctx, hout, hrx⟩ := feed_frameBytes_of_branches hr hst hp hbr
  refine ⟨t, hfeed, hctx, hout, ?_⟩
  rw [hrx]
  exact ⟨rfl, rfl, rfl, if_neg hne, rfl, Memory.holds_writeList s.rx.buf payload,
    fun k hk => Memory.read_writeList_of_outside s.rx.buf payload (.inr (by omega))⟩

/-- Settles O43: the frame reaches the dispatcher with its length 4, and the branch decodes its operands. -/
theorem setMotorsFrameIsCarriedOut : Obligations.SetMotorsFrameIsCarriedOut := by
  intro s a b _ hr hs hst
  let payload := pair16Bytes s.cfg.byteOrder a b
  obtain ⟨b0, b1, ha, hda⟩ := decI16_i16Bytes s.cfg.byteOrder a
  obtain ⟨b2, b3, hb, hdb⟩ := decI16_i16Bytes s.cfg.byteOrder b
  have hbytes : payload = [b0, b1, b2, b3] := by simp [payload, pair16Bytes, ha, hb]
  have hsize : payload.length = 4 := pair16Bytes_length ..
  have hlen : lengthByte payload = 4 := by simp [lengthByte, hsize]
  obtain ⟨hbranch, -⟩ := setMotorsCallsThenAcks (goodFrameOut s.cfg.cmdSetMotors payload)
    (s.handedOut s.cfg.cmdSetMotors payload) rfl rfl
  have hframe := feed_frameBytes_payload_of_branches hr hst (by omega) (by simp [hbytes])
    (hbranch b0 b1 b2 b3 hr.notBusy hs hlen hbytes)
  have hcfg : (s.handedOut s.cfg.cmdSetMotors payload).cfg = s.cfg := rfl
  rw [hcfg, hda, hdb, hlen, hsize] at hframe
  exact hframe

/-- Settles O44: the frame reaches the dispatcher with its length 8, and the branch decodes its operands. -/
theorem moveStepsFrameIsCarriedOut : Obligations.MoveStepsFrameIsCarriedOut := by
  intro s a b hc hr hs hst
  let payload := pair32Bytes s.cfg.byteOrder a b
  obtain ⟨b0, b1, b2, b3, ha, hda⟩ := decI32_i32Bytes s.cfg.byteOrder a
  obtain ⟨b4, b5, b6, b7, hb, hdb⟩ := decI32_i32Bytes s.cfg.byteOrder b
  have hbytes : payload = [b0, b1, b2, b3, b4, b5, b6, b7] := by simp [payload, pair32Bytes, ha, hb]
  have hsize : payload.length = 8 := pair32Bytes_length ..
  have hlen : lengthByte payload = 8 := by simp [lengthByte, hsize]
  obtain ⟨hbranch, -⟩ := moveStepsCallsThenAcks (goodFrameOut s.cfg.cmdMoveSteps payload)
    (s.handedOut s.cfg.cmdMoveSteps payload) hc rfl rfl
  have hframe := feed_frameBytes_payload_of_branches hr hst (by omega) (by simp [hbytes])
    (hbranch b0 b1 b2 b3 b4 b5 b6 b7 hr.notBusy hs hlen hbytes)
  have hcfg : (s.handedOut s.cfg.cmdMoveSteps payload).cfg = s.cfg := rfl
  rw [hcfg, hda, hdb, hlen, hsize] at hframe
  exact hframe

end Sys2Proof.Machine

/-! The error conditions on a whole frame (60_exceptions.md R192, R195): from `WaitForSOF`, a frame that is discarded or
dropped without an answer. -/

namespace Sys2Proof.Machine

/-- Settles O47: the bytes before the last lead to `ReadEof`, and there a byte other than `EOF` writes
`rx.state` alone. -/
theorem malformedTerminatorIsSilent : Obligations.MalformedTerminatorIsSilent := by
  intro s id csum last payload hr hst hp hlast
  let framed := s.setRx (s.rx.framed id csum payload)
  have hfeed : feed ([s.cfg.sof, id, lengthByte payload] ++ payload ++ [csum]) s = .next framed :=
    feed_untilEof hr id csum hst hp
  obtain ⟨hdiscard, -⟩ := rxEofBadDiscardsTheFrame framed last (hr.setRx _) rfl hlast
  refine ⟨{ framed.rx with state := .waitForSof }, ?_, rfl⟩
  calc feed ([s.cfg.sof, id, lengthByte payload] ++ payload ++ [csum, last]) s
      = feed ([s.cfg.sof, id, lengthByte payload] ++ payload ++ [csum] ++ [last]) s := by simp
    _ = feed [last] framed := feed_append_of_next hfeed
    _ = .next (framed.setRxState .waitForSof) := feed_cons_of_next hdiscard

/-- The length byte tells the payload's size apart from every other size. -/
theorem lengthByte_ne_of_length_ne {payload : List Byte} {n : Byte} (hp : payload.length ≤ 254)
    (hn : payload.length ≠ n.toNat) : lengthByte payload ≠ n := by
  rintro rfl
  exact hn (lengthByte_toNat hp).symm

/-- A good SetMotors or MoveSteps frame of the wrong size is one of the two drops of the length gate (R169). -/
theorem silentlyDropped_goodFrameOut {c : Config} {id : Byte} {payload : List Byte} (hp : payload.length ≤ 254)
    (hgate : (id = c.cmdSetMotors ∧ payload.length ≠ 4) ∨ (id = c.cmdMoveSteps ∧ payload.length ≠ 8)) :
    silentlyDropped c (goodFrameOut id payload) :=
  ⟨rfl, hgate.imp (And.imp_right (lengthByte_ne_of_length_ne hp)) (And.imp_right (lengthByte_ne_of_length_ne hp))⟩

/-- Settles O50: the length gate drops the frame, so the dispatch leaves the state in which it was handed out. -/
theorem payloadSizeMismatchIsSilent : Obligations.PayloadSizeMismatchIsSilent := by
  intro s id payload hc hr hst hp hgate
  have hdrop : dispatch (goodFrameOut id payload) (s.handedOut id payload) = .next (s.handedOut id payload) :=
    dispatch_of_silentlyDropped hc (silentlyDropped_goodFrameOut hp hgate)
  obtain ⟨-, hfeed⟩ := feed_frameBytes_of_dispatch hr hst hp hdrop
  exact ⟨_, hfeed, rfl⟩

end Sys2Proof.Machine

/-! The invariant along a feed (10_state.md R36), and the sink's answers that are left to it: with none of them `never`,
a feed returns (60_exceptions.md R190). -/

namespace Sys2Proof.Machine

/-- A byte written to the cell after the written ones is one more written cell. -/
theorem Memory.Written.write {m : Memory} {n : Nat} (h : m.Written n) (b : Byte) : (m.write n b).Written (n + 1) := by
  intro k hk
  obtain rfl | hne := eq_or_ne k n
  · rw [Memory.read_write_self]
    rfl
  · rw [Memory.read_write_of_ne m b hne]
    exact h k (by omega)

/-- Where the payload has not begun, the invariant speaks of the buffer's form and the index alone. -/
theorem RxContext.Inv.of_beforePayload {rx : RxContext} (hbuf : rx.buf.wf = true) (hidx : rx.idx.toNat ≤ 254)
    (hst : rx.state = .waitForSof ∨ rx.state = .readId ∨ rx.state = .readLength) : rx.Inv where
  bufWf := hbuf
  index := hidx
  payload h := by simp [h] at hst
  complete h := by obtain h | h := h <;> simp [h] at hst

/-- A branch leaves the sink's answers that it has not used. -/
theorem runBranch_sinkAnswers {op : DispOp} {s t : State} (h : runBranch op s = .next t) :
    t.sinkAnswers <:+ s.sinkAnswers := by
  obtain ⟨-, new, -, -, -, -, -, hsink, -⟩ := runBranch_eq_next h
  exact hsink ▸ List.drop_suffix _ _

/-- A completed frame writes of the context `rx.state` alone (R121), and leaves the sink's answers that its dispatch has
not used. -/
theorem completeFrame_rx_and_sinkAnswers {s t : State} (h : completeFrame s = .next t) :
    t.rx = { s.rx with state := .waitForSof } ∧ t.sinkAnswers <:+ s.sinkAnswers := by
  obtain ⟨payload, u, -, hdisp, rfl⟩ := completeFrame_eq_next h
  obtain ⟨op, -, hop⟩ := dispatch_eq_next hdisp
  obtain ⟨hsame, -⟩ := runBranch_eq_next hop
  have hrx : u.rx = s.rx := hsame.rx
  have hsink := runBranch_sinkAnswers hop
  exact ⟨by rw [State.setRxState_rx, hrx], hsink⟩

/-- Every transition keeps the invariant of the context (R36). -/
theorem runTransition_rx_inv {op : RxOp} {b : Byte} {s t : State} (hinv : s.rx.Inv)
    (h : runTransition op b s = .next t) : t.rx.Inv := by
  obtain ⟨-, ht⟩ := runTransition_eq_next h
  cases op with
  | waitSof =>
    obtain ⟨-, rfl⟩ := ht
    exact .of_beforePayload hinv.bufWf hinv.index (.inr (.inl rfl))
  | waitSkip =>
    obtain ⟨-, -, rfl⟩ := ht
    exact hinv
  | id =>
    obtain ⟨-, rfl⟩ := ht
    exact .of_beforePayload hinv.bufWf hinv.index (.inr (.inr rfl))
  | lenZero =>
    obtain ⟨-, rfl⟩ := ht
    exact ⟨hinv.bufWf, hinv.index, nofun, fun _ => ⟨Nat.zero_le _, nofun⟩⟩
  | lenOk =>
    obtain ⟨-, hb, rfl⟩ := ht
    obtain ⟨hpos, hlt⟩ := lengthAccepted_eq_true.1 hb
    exact ⟨hinv.bufWf, Nat.zero_le _, fun _ => ⟨hpos, Nat.le_of_lt_succ hlt, hpos, nofun⟩, nofun⟩
  | lenOver | eofBad =>
    obtain ⟨-, -, rfl⟩ := ht
    exact .of_beforePayload hinv.bufWf hinv.index (.inl rfl)
  | payMore =>
    obtain ⟨hst, hg, happ⟩ := ht
    obtain ⟨hcell, rfl⟩ := appendByte_eq_next happ
    obtain ⟨hpos, hlen, -, hw⟩ := hinv.payload hst
    have hroom := payloadMore_eq_true.1 hg
    have hnext : (s.rx.idx + 1).toNat = s.rx.idx.toNat + 1 := toNat_add_one_of_lt hcell
    exact ⟨Memory.write_wf _ _ b hinv.bufWf hcell, hnext ▸ (hroom.trans_le hlen).le,
      fun _ => ⟨hpos, hlen, hnext ▸ hroom, hnext ▸ hw.write b⟩, nofun⟩
  | payLast =>
    obtain ⟨hst, hg, happ⟩ := ht
    obtain ⟨hcell, rfl⟩ := appendByte_eq_next happ
    obtain ⟨-, hlen, -, hw⟩ := hinv.payload hst
    have hlast := payloadLast_eq_true.1 hg
    have hnext : (s.rx.idx + 1).toNat = s.rx.idx.toNat + 1 := toNat_add_one_of_lt hcell
    exact ⟨Memory.write_wf _ _ b hinv.bufWf hcell, hnext ▸ hlast.trans_le hlen, nofun,
      fun _ => ⟨hlen, hlast ▸ hw.write b⟩⟩
  | csum =>
    obtain ⟨hst, rfl⟩ := ht
    exact ⟨hinv.bufWf, hinv.index, nofun, fun _ => hinv.complete (.inl hst)⟩
  | eofOk =>
    obtain ⟨-, hdone⟩ := ht
    obtain ⟨hrx, -⟩ := completeFrame_rx_and_sinkAnswers hdone
    exact hrx ▸ .of_beforePayload hinv.bufWf hinv.index (.inl rfl)

/-- A transition leaves the sink's answers that it has not used. -/
theorem runTransition_sinkAnswers {op : RxOp} {b : Byte} {s t : State} (h : runTransition op b s = .next t) :
    t.sinkAnswers <:+ s.sinkAnswers := by
  obtain ⟨-, ht⟩ := runTransition_eq_next h
  cases op with
  | waitSof | id | lenZero | csum =>
    obtain ⟨-, rfl⟩ := ht
    exact List.suffix_rfl
  | waitSkip | lenOk | lenOver | eofBad =>
    obtain ⟨-, -, rfl⟩ := ht
    exact List.suffix_rfl
  | payMore | payLast =>
    obtain ⟨-, -, happ⟩ := ht
    obtain ⟨-, rfl⟩ := appendByte_eq_next happ
    exact List.suffix_rfl
  | eofOk =>
    obtain ⟨-, hdone⟩ := ht
    exact (completeFrame_rx_and_sinkAnswers hdone).2

/-- What changes the receiver's context alone of the block, and keeps the context's invariant, keeps the machine's. -/
theorem State.Inv.of_sameButContext {s t : State} (hinv : s.Inv) (hsame : s.SameButContext t) (hrx : t.rx.Inv) :
    t.Inv where
  cfgWf := hsame.cfg ▸ hinv.cfgWf
  ready := ⟨hsame.wasReset.trans hinv.ready.wasReset, hsame.txBusy.trans hinv.ready.notBusy⟩
  rx := hrx

/-- `RxByte` keeps the invariant of the machine, and leaves the sink's answers that it has not used. -/
theorem rxByte_inv_and_sinkAnswers {b : Byte} {s t : State} (hinv : s.Inv) (h : rxByte b s = .next t) :
    t.Inv ∧ t.sinkAnswers <:+ s.sinkAnswers := by
  obtain ⟨op, -, hop⟩ := rxByte_eq_next h
  exact ⟨hinv.of_sameButContext (runTransition_sameButContext hop) (runTransition_rx_inv hinv.rx hop),
    runTransition_sinkAnswers hop⟩

/-- A sink that does not report has been given `never` as its answer. -/
theorem never_mem_of_not_sinkReports {s : State} (h : ¬ s.SinkReports) : .never ∈ s.sinkAnswers :=
  List.mem_of_head? (not_not.1 h)

/-- Settles O27: each byte finds the invariant and a sink that reports, and leaves both to the bytes after it. -/
theorem feedReturnsUnlessASinkHangs : Obligations.FeedReturnsUnlessASinkHangs := by
  intro s bytes hinv hnever
  induction bytes generalizing s with
  | nil => exact ⟨s, rfl, hinv⟩
  | cons b bytes ih =>
    have hs : s.SinkReports := not_not.1 (mt never_mem_of_not_sinkReports hnever)
    obtain ⟨u, hb⟩ := rxByteNeverRefusesAByte s b hinv hs
    obtain ⟨huinv, hsink⟩ := rxByte_inv_and_sinkAnswers hinv hb
    rw [feed_cons_of_next hb]
    exact ih u huinv (mt (hsink.mem ·) hnever)

end Sys2Proof.Machine

/-! What a fault of each operation can be, under the invariant (60_exceptions.md R190, 10_state.md R35, 42_encoder.md
R145): the cells that are read are written, so that the sink alone can stop the block. -/

namespace Sys2Proof.Machine

/-- The fault is the sink's: it never reports, and an answer of it that is left says so. -/
def Fault.IsSinkHanging (e : Fault) (s : State) : Prop := e = .sinkNeverReports ∧ .never ∈ s.sinkAnswers

/-- An answer that is left was given before. -/
theorem Fault.IsSinkHanging.of_suffix {e : Fault} {s t : State} (h : e.IsSinkHanging t)
    (hsink : t.sinkAnswers <:+ s.sinkAnswers) : e.IsSinkHanging s :=
  ⟨h.1, hsink.mem h.2⟩

theorem encodeSend_eq_fault {id : Byte} {payload : List Byte} {s : State} {e : Fault}
    (h : encodeSend id payload s = .fault e) : e.IsSinkHanging s := by
  obtain ⟨-, hsend⟩ | ⟨-, -, hsend⟩ | ⟨-, -, hs, hsend⟩ | ⟨-, -, -, _, _, hsend, -⟩ :=
    encodeSend_cases id payload s
  · cases hsend ▸ h
  · cases hsend ▸ h
  · obtain rfl : .sinkNeverReports = e := Host.Outcome.fault.inj (hsend ▸ h)
    exact ⟨rfl, never_mem_of_not_sinkReports hs⟩
  · cases hsend ▸ h

theorem respond_eq_fault {id : Byte} {payload : List Byte} {s : State} {e : Fault}
    (h : respond id payload s = .fault e) : e.IsSinkHanging s := by
  unfold respond at h
  split at h
  · cases h
  · next hsend =>
    obtain rfl := Host.Outcome.fault.inj h
    exact encodeSend_eq_fault hsend
  · cases h

theorem encodeCall_eq_fault {id : Byte} {payload : List Byte} {s : State} {e : Fault}
    (h : encodeCall id payload s = .fault e) : e.IsSinkHanging s := by
  unfold encodeCall at h
  split at h
  · cases h
  · next hsend =>
    obtain rfl := Host.Outcome.fault.inj h
    exact encodeSend_eq_fault hsend
  · cases h

theorem execChecksum_ne_fault (id length : Byte) (payload : List Byte) (s : State) (e : Fault) :
    execChecksum id length payload s ≠ .fault e := by
  unfold execChecksum
  split <;> nofun

theorem runBranch_eq_fault {op : DispOp} {s : State} {e : Fault} (h : runBranch op s = .fault e) :
    e.IsSinkHanging s := by
  cases op with
  | setMotorsBadLen | moveStepsBadLen => cases h
  | badCsum | ping | unknown => exact respond_eq_fault h
  | setMotors | resetEncoders | moveSteps => exact respond_eq_fault (s := s.output _) h
  | getEncoders =>
    obtain ⟨-, -, hsink, -⟩ := askEncoders_same (s.output (.call .getEncoders))
    have hhang : e.IsSinkHanging (askEncoders (s.output (.call .getEncoders))).2 := respond_eq_fault h
    exact hhang.of_suffix (hsink ▸ List.suffix_rfl)

theorem dispatch_eq_fault {f : FrameOut} {s : State} {e : Fault} (h : dispatch f s = .fault e) : e.IsSinkHanging s := by
  unfold dispatch at h
  split at h
  · exact runBranch_eq_fault h
  · cases h

/-- The payload of a complete frame can be read: its cells exist and are written (R36(b), R36(d)). -/
theorem readPayload_of_written {s : State} (hw : s.rx.buf.Written s.rx.len.toNat) :
    ∃ payload, readPayload s = .ok payload := by
  obtain ⟨payload, hlen, hholds⟩ := hw.holds
  exact ⟨payload, readPayload_of_holds hlen hholds⟩

theorem completeFrame_eq_fault {s : State} {e : Fault} (hw : s.rx.buf.Written s.rx.len.toNat)
    (h : completeFrame s = .fault e) : e.IsSinkHanging s := by
  obtain ⟨payload, hp⟩ := readPayload_of_written hw
  simp only [completeFrame, hp] at h
  split at h
  · cases h
  · next hdisp => exact dispatch_eq_fault (s := s.output _) (hdisp.trans h)
  · cases h

/-- An index within its limit is the address of a cell (R36(c)). -/
theorem appendByte_ne_fault {s : State} (b : Byte) (next : RxState) (e : Fault) (hidx : s.rx.idx.toNat ≤ 254) :
    appendByte b next s ≠ .fault e := by
  rw [appendByte_next b next s (Nat.lt_succ_of_le hidx)]
  nofun

/-- Of the transitions `RX.EOF.OK` alone can stop, in its dispatch. -/
theorem runTransition_eq_fault {op : RxOp} {b : Byte} {s : State} {e : Fault} (hinv : s.rx.Inv)
    (h : runTransition op b s = .fault e) : e.IsSinkHanging s := by
  cases op with
  | waitSof | waitSkip | id | lenZero | lenOk | lenOver | csum | eofBad =>
    simp only [runTransition, execRxWaitSof, execRxWaitSkip, execRxId, execRxLenZero, execRxLenOk, execRxLenOver,
      execRxCsum, execRxEofBad] at h
    obtain ⟨-, -, hnext⟩ := receive_eq_fault h
    cases hnext
  | payMore | payLast =>
    obtain ⟨-, -, happ⟩ := receive_eq_fault h
    exact absurd happ (appendByte_ne_fault b _ e hinv.index)
  | eofOk =>
    obtain ⟨-, hst, hdone⟩ := receive_eq_fault h
    obtain ⟨-, hw⟩ := hinv.complete (.inr (of_decide_eq_true hst))
    exact completeFrame_eq_fault hw hdone

theorem rxByte_eq_fault {b : Byte} {s : State} {e : Fault} (hinv : s.rx.Inv) (h : rxByte b s = .fault e) :
    e.IsSinkHanging s := by
  unfold rxByte at h
  split at h
  · exact runTransition_eq_fault hinv h
  · cases h

theorem feed_eq_fault {bytes : List Byte} {s : State} {e : Fault} (hinv : s.Inv) (h : feed bytes s = .fault e) :
    e.IsSinkHanging s := by
  induction bytes generalizing s with
  | nil => cases h
  | cons b bytes ih =>
    simp only [feed] at h
    split at h
    · next u hb =>
      obtain ⟨huinv, hsink⟩ := rxByte_inv_and_sinkAnswers hinv hb
      exact (ih huinv h).of_suffix hsink
    · next hb => exact rxByte_eq_fault hinv.rx (hb.trans h)
    · cases h

theorem exec_eq_fault_of_rxStep {i : Instr} {s : State} {e : Fault} (hinv : s.rx.Inv) (hi : i.format = .rxStep)
    (h : exec i s = .fault e) : e.IsSinkHanging s := by
  obtain ⟨op, b, rfl⟩ := exists_rxInstr_of_format hi
  exact runTransition_eq_fault hinv (exec_rxInstr op b s ▸ h)

theorem exec_eq_fault_of_dispatch {i : Instr} {s : State} {e : Fault} (hi : i.format = .dispatch)
    (h : exec i s = .fault e) : e.IsSinkHanging s := by
  obtain ⟨op, rfl⟩ := exists_dispInstr_of_format hi
  exact runBranch_eq_fault (exec_dispInstr op s ▸ h)

/-- An operation that faults under the invariant waits for the sink. -/
theorem exec_eq_fault {i : Instr} {s : State} {e : Fault} (hinv : s.Inv) (h : exec i s = .fault e) :
    e.IsSinkHanging s := by
  cases i with
  | rxWaitSof | rxWaitSkip | rxId | rxLenZero | rxLenOk | rxLenOver | rxPayMore | rxPayLast | rxCsum | rxEofOk
  | rxEofBad => exact exec_eq_fault_of_rxStep hinv.rx rfl h
  | reset => cases h
  | checksum => exact absurd h (execChecksum_ne_fault _ _ _ s e)
  | encode | encoderData | modeData | ack | error | pong => exact encodeCall_eq_fault h
  | setMotors | getEncoders | resetEncoders | ping | moveSteps | getMode => exact feed_eq_fault hinv h
  | dispBadCsum | dispSetMotors | dispSetMotorsBadLen | dispGetEncoders | dispResetEncoders | dispPing | dispMoveSteps
  | dispMoveStepsBadLen | dispUnknown => exact exec_eq_fault_of_dispatch rfl h

/-- A step that faults ran the operation its oldest input decodes to, that input taken. -/
theorem step_eq_fault {s : State} {e : Fault} (h : step s = .fault e) :
    ∃ i rest, exec i (s.setInbox rest) = .fault e := by
  cases hin : s.inbox with
  | nil => cases machineWaitsForInput s hin ▸ h
  | cons input rest =>
    cases hd : decode s.cfg (s.wordOf input) with
    | ok i => exact ⟨i, rest, step_of_decode_ok hin hd ▸ h⟩
    | error _ => cases step_of_decode_error hin hd ▸ h

/-- Settles O58: taking the input leaves the invariant and the sink's answers, and the operation faults for the sink
alone. -/
theorem onlyAHangingSinkStopsTheBlock : Obligations.OnlyAHangingSinkStopsTheBlock := by
  intro s e hinv h
  obtain ⟨i, rest, hexec⟩ := step_eq_fault h
  have htaken : (s.setInbox rest).Inv := ⟨hinv.cfgWf, ⟨hinv.ready.wasReset, hinv.ready.notBusy⟩, hinv.rx⟩
  exact exec_eq_fault (s := s.setInbox rest) htaken hexec

end Sys2Proof.Machine

/-! The encoder while it is busy (10_state.md R39, 70_reset_and_hazards.md R224), and the state after reset (R221). -/

namespace Sys2Proof.Machine

theorem encodeSend_of_busy (id : Byte) {payload : List Byte} {s : State} (hp : payload.length ≤ 254)
    (hb : s.txBusy = true) : encodeSend id payload s = .refused .encoderBusy := by
  obtain ⟨hlong, -⟩ | ⟨-, -, hrefused⟩ | ⟨-, hidle, -⟩ | ⟨-, hidle, -⟩ := encodeSend_cases id payload s
  · omega
  · exact hrefused
  · simp [hb] at hidle
  · simp [hb] at hidle

theorem encodeCall_of_busy (id : Byte) {payload : List Byte} {s : State} (hp : payload.length ≤ 254)
    (hb : s.txBusy = true) : encodeCall id payload s = .refused .encoderBusy := by
  simp [encodeCall, encodeSend_of_busy id hp hb]

/-- A byte that is taken was taken by a ready receiver: each transition tests this first (R222, R224). -/
theorem ready_of_rxByte_eq_next {b : Byte} {s t : State} (h : rxByte b s = .next t) : s.Ready := by
  obtain ⟨op, -, hop⟩ := rxByte_eq_next h
  exact (runTransition_eq_next hop).1

/-- Settles O33: `ENCODE` is one `Encode`, which a busy encoder refuses, and a byte that is taken would show the encoder
not busy. -/
theorem busyEncoderRefuses : Obligations.BusyEncoderRefuses := by
  refine fun s hb => ⟨fun id payload hp => encodeCall_of_busy id hp hb, fun b t h => ?_⟩
  have hidle : s.txBusy = false := (ready_of_rxByte_eq_next h).notBusy
  simp [hb] at hidle

/-- Settles O52: each of the three fields is as `State.resetWith` writes it, for any parameters. -/
theorem resetStateWaitsForSof : Obligations.ResetStateWaitsForSof := ⟨rfl, rfl, rfl⟩

end Sys2Proof.Machine

/-! The identifiers the parameters give (00_scope.md R12), and the branch the dispatcher selects by them (43_dispatcher.md
R164 to R168). -/

namespace Sys2Proof

/-- No identifier is one of those the decoder tests before it (R12). -/
theorem Config.Wf.ids_ne_earlier {c : Config} (hc : c.Wf) : c.ids.Pairwise fun earlier id => id ≠ earlier := by
  obtain ⟨-, hids, -⟩ := hc
  exact List.Pairwise.imp Ne.symm hids

end Sys2Proof

namespace Sys2Proof.Machine

/-- Of the five commands the dispatcher tests for, the three without a payload are none of those tested before them, and
Pong, a message, and the mode query are none of the five (R12, D21). -/
theorem dispatched_ids_ne_of_wf {c : Config} (hc : c.Wf) :
    c.cmdGetEncoders ≠ c.cmdSetMotors ∧
    (c.cmdResetEncoders ≠ c.cmdSetMotors ∧ c.cmdResetEncoders ≠ c.cmdGetEncoders) ∧
    (Config.cmdPing ≠ c.cmdSetMotors ∧ Config.cmdPing ≠ c.cmdGetEncoders ∧ Config.cmdPing ≠ c.cmdResetEncoders) ∧
    c.msgPong ∉ [c.cmdSetMotors, c.cmdGetEncoders, c.cmdResetEncoders, Config.cmdPing, c.cmdMoveSteps] ∧
    c.cmdGetMode ∉ [c.cmdSetMotors, c.cmdGetEncoders, c.cmdResetEncoders, Config.cmdPing, c.cmdMoveSteps] := by
  have hids := hc.ids_ne_earlier
  simp only [Config.ids, List.pairwise_cons, List.forall_mem_cons] at hids
  simp only [List.mem_cons, List.not_mem_nil, or_false, hids, ne_eq, not_false_eq_true, and_self]

section
variable {c : Config} {f : FrameOut} (hok : f.csumOk = true)
include hok

theorem decodeDispatch_getEncoders (hc : c.Wf) (hid : f.id = c.cmdGetEncoders) :
    decodeDispatch c f = .ok .getEncoders := by
  obtain ⟨hmotors, -⟩ := hid ▸ dispatched_ids_ne_of_wf hc
  rw [decodeDispatch, if_neg (by simp [hok]), if_neg hmotors, if_pos hid]

theorem decodeDispatch_resetEncoders (hc : c.Wf) (hid : f.id = c.cmdResetEncoders) :
    decodeDispatch c f = .ok .resetEncoders := by
  obtain ⟨-, ⟨hmotors, hget⟩, -⟩ := hid ▸ dispatched_ids_ne_of_wf hc
  rw [decodeDispatch, if_neg (by simp [hok]), if_neg hmotors, if_neg hget, if_pos hid]

theorem decodeDispatch_ping (hc : c.Wf) (hid : f.id = Config.cmdPing) : decodeDispatch c f = .ok .ping := by
  obtain ⟨-, -, ⟨hmotors, hget, hreset⟩, -⟩ := dispatched_ids_ne_of_wf hc
  rw [← hid] at hmotors hget hreset
  rw [decodeDispatch, if_neg (by simp [hok]), if_neg hmotors, if_neg hget, if_neg hreset, if_pos hid]

theorem decodeDispatch_unknown
    (hid : f.id ∉ [c.cmdSetMotors, c.cmdGetEncoders, c.cmdResetEncoders, Config.cmdPing, c.cmdMoveSteps]) :
    decodeDispatch c f = .ok .unknown := by
  simp only [List.mem_cons, List.not_mem_nil, or_false, not_or] at hid
  obtain ⟨hmotors, hget, hreset, hping, hsteps⟩ := hid
  rw [decodeDispatch, if_neg (by simp [hok]), if_neg hmotors, if_neg hget, if_neg hreset, if_neg hping, if_neg hsteps]

end

end Sys2Proof.Machine

/-! Decoding the encoding of an operation, by the format of its row (30_encoding.md R71, R77, R82, R90). -/

namespace Sys2Proof

theorem pair16Bytes_eq (o : ByteOrder) (a b : I16) : ∃ b0 b1 b2 b3, pair16Bytes o a b = [b0, b1, b2, b3] ∧
    decI16 o b0 b1 = a ∧ decI16 o b2 b3 = b := by
  obtain ⟨b0, b1, ha, hda⟩ := decI16_i16Bytes o a
  obtain ⟨b2, b3, hb, hdb⟩ := decI16_i16Bytes o b
  exact ⟨b0, b1, b2, b3, by simp [pair16Bytes, ha, hb], hda, hdb⟩

theorem pair32Bytes_eq (o : ByteOrder) (a b : I32) : ∃ b0 b1 b2 b3 b4 b5 b6 b7,
    pair32Bytes o a b = [b0, b1, b2, b3, b4, b5, b6, b7] ∧ decI32 o b0 b1 b2 b3 = a ∧ decI32 o b4 b5 b6 b7 = b := by
  obtain ⟨b0, b1, b2, b3, ha, hda⟩ := decI32_i32Bytes o a
  obtain ⟨b4, b5, b6, b7, hb, hdb⟩ := decI32_i32Bytes o b
  exact ⟨b0, b1, b2, b3, b4, b5, b6, b7, by simp [pair32Bytes, ha, hb], hda, hdb⟩

/-- A whole frame decodes to what its id and payload record say: the delimiters, the size and the checksum are those
`frameBytes` writes (R71). -/
theorem decode_frameBytes (c : Config) (id : Byte) {payload : List Byte} (hp : payload.length ≤ 254) :
    decode c (.frame (frameBytes c id payload)) = decodePayload c id payload := by
  have hlen := lengthByte_toNat hp
  have hlegal : ¬ 255 ≤ payload.length := by omega
  simp [decode, decodeFrame, frameBytes, lengthOver, csumOk, hlen, hlegal]

/-- As many operand bytes as the length byte says are the payload (log entry 8). -/
theorem codedPayload_of_length (f : Byte → Byte → List Byte → Instr) (id : Byte) {len : Byte} {payload : List Byte}
    (h : payload.length = len.toNat) : codedPayload f (id :: len :: payload) = .ok (f id len payload) := by
  simp [codedPayload, takeOperands, ← h]

theorem RxOp.instr_injective (b : Byte) : Function.Injective (RxOp.instr b) := by
  intro op op' h
  have hidx (op : RxOp) : (op.instr b).ctorIdx = op.ctorIdx := by cases op <;> rfl
  rw [← RxOp.ofNat_ctorIdx op, ← hidx, h, hidx, RxOp.ofNat_ctorIdx]

namespace Machine

/-- The word of a transition's state, byte and guard registers decodes to its row exactly where its condition holds. -/
theorem decode_rxStep_eq_ok_iff {c : Config} {st : RxState} {b idx len : Byte} {op : RxOp} :
    decode c (.rxStep st.code b idx len) = .ok (op.instr b) ↔ rxCondition c st b idx len op := by
  rw [decode_rxStep, ← decodeRx_eq_ok_iff]
  cases decodeRx c st b idx len with
  | error e => simp [Except.map]
  | ok op' => simp [Except.map, (RxOp.instr_injective b).eq_iff]

section
variable {c : Config} {i : Instr}

theorem decode_encode_of_rxStep (hf : i.format = .rxStep) (hi : i.wf c = true) : decode c (encode c i) = .ok i := by
  cases i with
  | rxWaitSof => exact decode_rxStep_eq_ok_iff (op := .waitSof).2 ⟨rfl, rfl⟩
  | rxWaitSkip b => exact decode_rxStep_eq_ok_iff (op := .waitSkip).2 ⟨rfl, bne_iff_ne.1 hi⟩
  | rxId b => exact decode_rxStep_eq_ok_iff (op := .id).2 rfl
  | rxLenZero => exact decode_rxStep_eq_ok_iff (op := .lenZero).2 ⟨rfl, rfl⟩
  | rxLenOk b => exact decode_rxStep_eq_ok_iff (op := .lenOk).2 ⟨rfl, lengthAccepted_eq_true.1 hi⟩
  | rxLenOver b => exact decode_rxStep_eq_ok_iff (op := .lenOver).2 ⟨rfl, lengthOver_eq_true.1 hi⟩
  | rxPayMore b => exact decode_rxStep_eq_ok_iff (op := .payMore).2 ⟨rfl, by decide⟩
  | rxPayLast b => exact decode_rxStep_eq_ok_iff (op := .payLast).2 ⟨rfl, rfl⟩
  | rxCsum b => exact decode_rxStep_eq_ok_iff (op := .csum).2 rfl
  | rxEofOk => exact decode_rxStep_eq_ok_iff (op := .eofOk).2 ⟨rfl, rfl⟩
  | rxEofBad b => exact decode_rxStep_eq_ok_iff (op := .eofBad).2 ⟨rfl, bne_iff_ne.1 hi⟩
  | _ => cases hf

theorem decode_encode_of_op (hf : i.format = .op) (hi : i.wf c = true) : decode c (encode c i) = .ok i := by
  cases i with
  | reset => rfl
  | checksum id length payload => exact codedPayload_of_length .checksum id (beq_iff_eq.1 hi)
  | encode id payload =>
    exact codedPayload_of_length (fun id _ payload => .encode id payload) id
      (lengthByte_toNat (of_decide_eq_true hi)).symm
  | _ => cases hf

theorem decode_encode_of_frame (hf : i.format = .frame) (hc : c.Wf) (hi : i.wf c = true) :
    decode c (encode c i) = .ok i := by
  have hids := hc.ids_ne_earlier
  simp only [Config.ids, BitVec.ofNat_eq_ofNat, List.pairwise_cons, List.forall_mem_cons] at hids
  cases i with
  | setMotors a b =>
    obtain ⟨b0, b1, b2, b3, hbytes, ha, hb⟩ := pair16Bytes_eq c.byteOrder a b
    simp [encode, decode_frameBytes, decodePayload, hbytes, ha, hb]
  | moveSteps a b | encoderData a b =>
    obtain ⟨b0, b1, b2, b3, b4, b5, b6, b7, hbytes, ha, hb⟩ := pair32Bytes_eq c.byteOrder a b
    simp [encode, decode_frameBytes, decodePayload, hids, hbytes, ha, hb]
  | getEncoders | resetEncoders | ping | getMode | pong | modeData | ack =>
    simp [encode, decode_frameBytes, decodePayload, hids]
  | error e =>
    have hcode : e = c.errBadChecksum ∨ e = c.errUnknownCommand := by simpa [Instr.wf] using hi
    simp [encode, decode_frameBytes, decodePayload, hids, hcode]
  | _ => cases hf

theorem decode_encode_of_dispatch (hf : i.format = .dispatch) (hc : c.Wf) : decode c (encode c i) = .ok i := by
  have hsel {f : FrameOut} {op : DispOp} (h : decodeDispatch c f = .ok op) : decode c (.dispatch f) = .ok op.instr := by
    rw [decode_dispatch, h]; rfl
  cases i with
  | dispBadCsum => exact hsel (decodeDispatch_badCsum rfl)
  | dispSetMotors a b =>
    obtain ⟨b0, b1, b2, b3, hbytes, rfl, rfl⟩ := pair16Bytes_eq c.byteOrder a b
    exact hsel (decodeDispatch_setMotors rfl rfl (by simp [goodFrameOut, lengthByte]) hbytes)
  | dispSetMotorsBadLen => exact hsel (decodeDispatch_setMotorsBadLen rfl rfl (by simp [goodFrameOut, lengthByte]))
  | dispGetEncoders => exact hsel (decodeDispatch_getEncoders rfl hc rfl)
  | dispResetEncoders => exact hsel (decodeDispatch_resetEncoders rfl hc rfl)
  | dispPing => exact hsel (decodeDispatch_ping rfl hc rfl)
  | dispMoveSteps a b =>
    obtain ⟨b0, b1, b2, b3, b4, b5, b6, b7, hbytes, rfl, rfl⟩ := pair32Bytes_eq c.byteOrder a b
    exact hsel (decodeDispatch_moveSteps hc rfl rfl (by simp [goodFrameOut, lengthByte]) hbytes)
  | dispMoveStepsBadLen => exact hsel (decodeDispatch_moveStepsBadLen hc rfl rfl (by simp [goodFrameOut, lengthByte]))
  | dispUnknown =>
    obtain ⟨-, -, -, hpong, -⟩ := dispatched_ids_ne_of_wf hc
    exact hsel (decodeDispatch_unknown rfl hpong)
  | _ => cases hf

end

/-- Settles O7: each of the four formats of the table decodes what it encodes. -/
theorem decodeOfEncodeIsTheOperation : Obligations.DecodeOfEncodeIsTheOperation := by
  intro c i hc hi
  cases hf : i.format with
  | rxStep => exact decode_encode_of_rxStep hf hi
  | op => exact decode_encode_of_op hf hi
  | frame => exact decode_encode_of_frame hf hc hi
  | dispatch => exact decode_encode_of_dispatch hf hc

end Machine

end Sys2Proof

/-! Every step keeps the invariant, and the context what the consecutive inbound bytes made it (10_state.md R36). -/

namespace Sys2Proof.Machine

/-- A row of the receiver's format that answers a next state is a transition on some byte. -/
theorem exec_eq_next_of_rxStep {i : Instr} {s t : State} (hi : i.format = .rxStep) (h : exec i s = .next t) :
    ∃ op b, i = RxOp.instr b op ∧ runTransition op b s = .next t := by
  obtain ⟨op, b, rfl⟩ := exists_rxInstr_of_format hi
  exact ⟨op, b, rfl, exec_rxInstr op b s ▸ h⟩

/-- Every operation that answers a next state is `RESET`, a transition, a command frame fed to the receiver, or one that
takes no inbound byte and leaves the whole block as it was. -/
theorem exec_eq_next {i : Instr} {s t : State} (h : exec i s = .next t) :
    i = .reset ∨ (∃ op b, i = RxOp.instr b op ∧ runTransition op b s = .next t) ∨
      feed (inboundOf s.cfg i) s = .next t ∨ (inboundOf s.cfg i = [] ∧ s.SameBlock t) := by
  cases i with
  | reset => exact .inl rfl
  | rxWaitSof | rxWaitSkip | rxId | rxLenZero | rxLenOk | rxLenOver | rxPayMore | rxPayLast | rxCsum | rxEofOk
  | rxEofBad => exact .inr (.inl (exec_eq_next_of_rxStep rfl h))
  | setMotors | getEncoders | resetEncoders | ping | moveSteps | getMode => exact .inr (.inr (.inl h))
  | checksum => exact .inr (.inr (.inr ⟨rfl, execChecksum_sameBlock h⟩))
  | encode | encoderData | modeData | ack | error | pong => exact .inr (.inr (.inr ⟨rfl, (encodeCall_eq_next h).2.1⟩))
  | dispBadCsum | dispSetMotors | dispSetMotorsBadLen | dispGetEncoders | dispResetEncoders | dispPing | dispMoveSteps
  | dispMoveStepsBadLen | dispUnknown => exact .inr (.inr (.inr ⟨rfl, exec_sameBlock_of_dispatch rfl h⟩))

theorem feed_inv {bytes : List Byte} {s t : State} (hinv : s.Inv) (h : feed bytes s = .next t) : t.Inv := by
  induction bytes generalizing s with
  | nil =>
    obtain rfl : s = t := Host.Outcome.next.inj h
    exact hinv
  | cons b bytes ih =>
    obtain ⟨u, hb, hrest⟩ := feed_cons_eq_next h
    obtain ⟨huinv, -⟩ := rxByte_inv_and_sinkAnswers hinv hb
    exact ih huinv hrest

/-- The free index `RESET` draws is within its limit (R36(c)). -/
theorem freeIndex_toNat_le (k : Nat) : (BitVec.ofNat 8 (Config.freeIndex k).val).toNat ≤ 254 := by
  have hlt : (Config.freeIndex k).val < 255 := (Config.freeIndex k).isLt
  rw [BitVec.toNat_ofNat]
  omega

theorem execReset_inv {s t : State} (hc : s.cfg.Wf) (h : execReset s = .next t) : t.Inv := by
  obtain rfl := Host.Outcome.next.inj h
  exact ⟨hc, ⟨rfl, rfl⟩, .of_beforePayload rfl (freeIndex_toNat_le _) (.inl rfl)⟩

/-- Every operation keeps the invariant of the machine. -/
theorem exec_inv {i : Instr} {s t : State} (hinv : s.Inv) (h : exec i s = .next t) : t.Inv := by
  obtain rfl | ⟨op, b, -, hop⟩ | hfeed | ⟨-, hsame⟩ := exec_eq_next h
  · exact execReset_inv hinv.cfgWf h
  · exact hinv.of_sameButContext (runTransition_sameButContext hop) (runTransition_rx_inv hinv.rx hop)
  · exact feed_inv hinv hfeed
  · exact hinv.of_sameButContext hsame.sameButContext (hsame.rx ▸ hinv.rx)

/-- Where the receiver waits for a `SOF`, the bytes before say nothing of the context. -/
theorem received_of_waitForSof {s : State} (inbound : List Byte) (hst : s.rx.state = .waitForSof) :
    s.Received inbound := by
  simp only [State.Received, hst]

/-- What the bytes so far say of the context is told by its registers and the delimiter alone. -/
theorem State.Received.of_sameBlock {s t : State} {inbound : List Byte} (h : s.Received inbound)
    (hsame : s.SameBlock t) : t.Received inbound := by
  simpa only [State.Received, hsame.rx, hsame.cfg] using h

/-- A transition's byte, after the bytes before it, makes the context what it is after the transition. -/
theorem runTransition_received {op : RxOp} {b : Byte} {s t : State} {inbound : List Byte}
    (hrec : s.Received inbound) (h : runTransition op b s = .next t) :
    t.Received (inbound ++ inboundOf s.cfg (op.instr b)) := by
  obtain ⟨-, ht⟩ := runTransition_eq_next h
  cases op with
  | waitSof =>
    obtain ⟨-, rfl⟩ := ht
    exact List.suffix_append ..
  | waitSkip =>
    obtain ⟨hst, -, rfl⟩ := ht
    exact received_of_waitForSof _ hst
  | lenOver | eofBad =>
    obtain ⟨-, -, rfl⟩ := ht
    exact received_of_waitForSof _ rfl
  | id =>
    obtain ⟨hst, rfl⟩ := ht
    simp only [State.Received, hst] at hrec
    exact List.suffix_append_self_iff.2 hrec
  | lenZero =>
    obtain ⟨hst, rfl⟩ := ht
    simp only [State.Received, hst] at hrec
    exact ⟨[], rfl, Memory.holds_nil _, List.suffix_append_self_iff.2 hrec⟩
  | lenOk =>
    obtain ⟨hst, -, rfl⟩ := ht
    simp only [State.Received, hst] at hrec
    exact ⟨[], rfl, Memory.holds_nil _, List.suffix_append_self_iff.2 hrec⟩
  | payMore =>
    obtain ⟨hst, -, happ⟩ := ht
    obtain ⟨hcell, rfl⟩ := appendByte_eq_next happ
    simp only [State.Received, hst] at hrec
    obtain ⟨payload, hlen, hholds, hsuffix⟩ := hrec
    have hnext : (payload ++ [b]).length = (s.rx.idx + 1).toNat := by
      rw [toNat_add_one_of_lt hcell, List.length_append, hlen, List.length_singleton]
    exact ⟨payload ++ [b], hnext, hlen ▸ hholds.append b, List.suffix_append_self_iff.2 hsuffix⟩
  | payLast =>
    obtain ⟨hst, hg, happ⟩ := ht
    obtain ⟨hcell, rfl⟩ := appendByte_eq_next happ
    simp only [State.Received, hst] at hrec
    obtain ⟨payload, hlen, hholds, hsuffix⟩ := hrec
    have hnext : (payload ++ [b]).length = s.rx.len.toNat := by
      rw [← payloadLast_eq_true.1 hg, List.length_append, hlen, List.length_singleton]
    exact ⟨payload ++ [b], hnext, hlen ▸ hholds.append b, List.suffix_append_self_iff.2 hsuffix⟩
  | csum =>
    obtain ⟨hst, rfl⟩ := ht
    simp only [State.Received, hst] at hrec
    obtain ⟨payload, hlen, hholds, hsuffix⟩ := hrec
    exact ⟨payload, hlen, hholds, List.suffix_append_self_iff.2 hsuffix⟩
  | eofOk =>
    obtain ⟨-, hdone⟩ := ht
    obtain ⟨_, _, -, -, rfl⟩ := completeFrame_eq_next hdone
    exact received_of_waitForSof _ rfl

theorem feed_received {bytes : List Byte} {s t : State} {inbound : List Byte} (hrec : s.Received inbound)
    (h : feed bytes s = .next t) : t.Received (inbound ++ bytes) := by
  induction bytes generalizing s inbound with
  | nil =>
    obtain rfl : s = t := Host.Outcome.next.inj h
    rwa [List.append_nil]
  | cons b bytes ih =>
    obtain ⟨u, hb, hrest⟩ := feed_cons_eq_next h
    obtain ⟨op, hd, hop⟩ := rxByte_eq_next hb
    have hu : u.Received (inbound ++ [b]) := inboundOf_rxInstr hd ▸ runTransition_received hrec hop
    simpa using ih hu hrest

/-- The bytes an operation takes, after the bytes before them, make the context what it is after the operation. -/
theorem exec_received {i : Instr} {s t : State} {inbound : List Byte} (hrec : s.Received inbound)
    (h : exec i s = .next t) : t.Received (inbound ++ inboundOf s.cfg i) := by
  obtain rfl | ⟨op, b, rfl, hop⟩ | hfeed | ⟨hnone, hsame⟩ := exec_eq_next h
  · obtain rfl := Host.Outcome.next.inj h
    exact received_of_waitForSof _ rfl
  · exact runTransition_received hrec hop
  · exact feed_received hrec hfeed
  · rw [hnone, List.append_nil]
    exact hrec.of_sameBlock hsame

theorem takes_of_decode_ok {s : State} {input : Input} {rest : List Input} {i : Instr}
    (hin : s.inbox = input :: rest) (hd : decode s.cfg (s.wordOf input) = .ok i) : s.takes = inboundOf s.cfg i := by
  simp [State.takes, fetch_of_decode_ok hin hd]

theorem takes_of_inbox_nil {s : State} (hin : s.inbox = []) : s.takes = [] := by
  simp [State.takes, fetch, hin]

/-- Settles O56: a step that waits takes no byte and changes nothing; taking an input leaves the parameters and the
context, and the operation it decodes to keeps the invariant and takes that operation's bytes. -/
theorem everyStepKeepsTheContextInvariant : Obligations.EveryStepKeepsTheContextInvariant := by
  intro s t h
  obtain ⟨hin, rfl⟩ | ⟨input, rest, i, hin, hd, hexec⟩ := step_eq_next h
  · exact ⟨id, fun inbound hrec => by rwa [takes_of_inbox_nil hin, List.append_nil]⟩
  · rw [takes_of_decode_ok hin hd]
    exact ⟨fun hinv => exec_inv (s := s.setInbox rest) ⟨hinv.cfgWf, ⟨hinv.ready.wasReset, hinv.ready.notBusy⟩, hinv.rx⟩
        hexec,
      fun _ hrec => exec_received (s := s.setInbox rest) hrec hexec⟩

/-- The parameters of the built block meet the spec's constraints, whatever the free choice was (log entry 1). -/
theorem build_wf : Config.build.Wf := by
  unfold Config.build
  split
  · assumption
  · decide

theorem resetWith_inv {c : Config} (hc : c.Wf) : (State.resetWith c).Inv :=
  ⟨hc, ⟨rfl, rfl⟩, .of_beforePayload rfl (Nat.zero_le _) (.inl rfl)⟩

/-- Settles O57: the reset state waits for a `SOF`, its buffer empty and its index zero. -/
theorem resetMeetsTheContextInvariant : Obligations.ResetMeetsTheContextInvariant :=
  ⟨⟨resetWith_inv build_wf, received_of_waitForSof [] rfl⟩,
    fun _ hc => ⟨resetWith_inv hc, received_of_waitForSof [] rfl⟩⟩

end Sys2Proof.Machine

/-! The fields of a payload record and the bytes they are decoded from (30_encoding.md R78, 43_dispatcher.md R175). -/

namespace Sys2Proof

/-- An append of words is their weighted sum. -/
theorem toNat_append_eq {m n : Nat} (hi : BitVec m) (lo : BitVec n) : (hi ++ lo).toNat = hi.toNat * 2 ^ n + lo.toNat := by
  rw [BitVec.toNat_append, ← Nat.shiftLeft_add_eq_or_of_lt lo.isLt, Nat.shiftLeft_eq]

theorem decI16_little_toNat (b0 b1 : Byte) : (decI16 .little b0 b1).toNat = b1.toNat * 256 + b0.toNat :=
  toNat_append_eq b1 b0

theorem decI32_little_toNat (b0 b1 b2 b3 : Byte) : (decI32 .little b0 b1 b2 b3).toNat =
    b3.toNat * 16777216 + b2.toNat * 65536 + b1.toNat * 256 + b0.toNat := by
  simp only [decI32, toNat_append_eq]
  omega

/-- A byte of a word is a digit of its value to the base 256. -/
theorem extractLsb'_eq_iff {w : Nat} {v : BitVec w} {k : Nat} {b : Byte} :
    v.extractLsb' k 8 = b ↔ v.toNat / 2 ^ k % 256 = b.toNat := by
  rw [← BitVec.toNat_inj, BitVec.extractLsb'_toNat, Nat.shiftRight_eq_div_pow]

theorem i16Bytes_decI16_little (b0 b1 : Byte) : i16Bytes .little (decI16 .little b0 b1) = [b0, b1] := by
  simp only [i16Bytes, List.cons.injEq, extractLsb'_eq_iff, decI16_little_toNat, and_true]
  omega

theorem i32Bytes_decI32_little (b0 b1 b2 b3 : Byte) :
    i32Bytes .little (decI32 .little b0 b1 b2 b3) = [b0, b1, b2, b3] := by
  simp only [i32Bytes, List.cons.injEq, extractLsb'_eq_iff, decI32_little_toNat, and_true]
  omega

/-- Big-endian both the bytes and the decoding of them are reversed. -/
theorem i16Bytes_decI16 (o : ByteOrder) (b0 b1 : Byte) : i16Bytes o (decI16 o b0 b1) = [b0, b1] := by
  cases o with
  | little => exact i16Bytes_decI16_little b0 b1
  | big => exact congrArg List.reverse (i16Bytes_decI16_little b1 b0)

theorem i32Bytes_decI32 (o : ByteOrder) (b0 b1 b2 b3 : Byte) :
    i32Bytes o (decI32 o b0 b1 b2 b3) = [b0, b1, b2, b3] := by
  cases o with
  | little => exact i32Bytes_decI32_little b0 b1 b2 b3
  | big => exact congrArg List.reverse (i32Bytes_decI32_little b3 b2 b1 b0)

/-- Settles O3: a word's bytes are the digits of its value, little-endian the lowest first, big-endian the highest. -/
theorem fieldCodecsInvertEachOther : Obligations.FieldCodecsInvertEachOther :=
  ⟨decI16_i16Bytes, i16Bytes_decI16, fun b0 b1 => ⟨decI16_little_toNat b0 b1, rfl⟩,
    decI32_i32Bytes, i32Bytes_decI32, fun b0 b1 b2 b3 => ⟨decI32_little_toNat b0 b1 b2 b3, rfl⟩⟩

end Sys2Proof

/-! The encodings written out (30_encoding.md R72, R81), and the one transition the decode table selects (R82, R124). -/

namespace Sys2Proof.Machine

/-- Settles O1: every state is read back from its code, and the two codes left are none of the six. -/
theorem stateCodesAreZeroToFive : Obligations.StateCodesAreZeroToFive :=
  ⟨⟨rfl, rfl, rfl, rfl, rfl, rfl⟩, RxState.ofCode_code, rfl, rfl⟩

/-- Settles O6: the decoder evaluates each of the words, with the parameters of T0. -/
theorem writtenWordsDecodeToTheirRows : Obligations.WrittenWordsDecodeToTheirRows := by
  unfold Obligations.WrittenWordsDecodeToTheirRows
  decide

theorem frameBytes_length (c : Config) (id : Byte) (payload : List Byte) :
    (frameBytes c id payload).length = payload.length + 5 := by
  simp [frameBytes]

/-- Settles O2: beside the payload there are SOF, id, length, checksum and EOF. -/
theorem frameHasFiveBytesBesidePayload : Obligations.FrameHasFiveBytesBesidePayload := by
  intro c id payload
  rw [frameBytes_length]
  exact ⟨rfl, fun h => by rw [h], fun h => by rw [h]⟩

/-- Settles O4: the transition the decode table answers is the one whose condition holds, and where `ReadPayload` has
room it answers one. -/
theorem decodeSelectsExactlyOneTransition : Obligations.DecodeSelectsExactlyOneTransition := by
  intro c st b idx len hroom
  obtain ⟨op, hop⟩ := decodeRx_total c b hroom
  refine ⟨⟨op, decodeRx_eq_ok_iff.1 hop, fun op' hc => ?_⟩, fun op' => decode_rxStep_eq_ok_iff⟩
  have hop' : decodeRx c st b idx len = .ok op' := decodeRx_eq_ok_iff.2 hc
  exact Except.ok.inj (hop'.symm.trans hop)

end Sys2Proof.Machine

/-! The checksum engine (40_checksum.md R100 to R105). -/

namespace Sys2Proof

theorem checksum_getLsbD (id length : Byte) (payload : List Byte) (i : Nat) :
    (checksum id length payload).getLsbD i =
      (payload.map fun b => b.getLsbD i).foldl Bool.xor (Bool.xor (id.getLsbD i) (length.getLsbD i)) := by
  simp only [checksum, ← BitVec.getLsbD_xor]
  generalize id ^^^ length = fold
  induction payload generalizing fold with
  | nil => rfl
  | cons b payload ih => simpa using ih (fold ^^^ b)

theorem checksum_perm (id length : Byte) {p q : List Byte} (h : p.Perm q) :
    checksum id length p = checksum id length q :=
  h.foldl_eq' (fun x _ y _ fold => by rw [BitVec.xor_assoc, BitVec.xor_comm x, ← BitVec.xor_assoc]) _

/-- Settles O10: bit by bit the fold is the fold of the bits, and exclusive-or commutes. -/
theorem checksumIsBitwiseAndOrderFree : Obligations.ChecksumIsBitwiseAndOrderFree :=
  ⟨checksum_getLsbD, fun id length _ _ => checksum_perm id length⟩

/-- Of the checksum the id is one exclusive-or operand. -/
theorem checksum_eq_id_xor (id length : Byte) (payload : List Byte) :
    checksum id length payload = id ^^^ checksum 0 length payload := by
  induction payload generalizing id with
  | nil => simp
  | cons b payload ih =>
    rw [checksum_cons, ih (id ^^^ b), checksum_cons 0, ih (0 ^^^ b)]
    simp [BitVec.xor_assoc]

/-- Two ids of one checksum are equal. -/
theorem checksum_id_inj {id id' length : Byte} {payload : List Byte} :
    checksum id length payload = checksum id' length payload ↔ id = id' := by
  rw [checksum_eq_id_xor id, checksum_eq_id_xor id', BitVec.xor_left_inj]

/-- A payload byte in any place is folded as the first is. -/
theorem checksum_middle (id length b : Byte) (before after : List Byte) :
    checksum id length (before ++ b :: after) = checksum (id ^^^ b) length (before ++ after) :=
  (checksum_perm id length List.perm_middle).trans (checksum_cons ..)

theorem csumOk_eq_true {id len csum : Byte} {payload : List Byte} :
    csumOk id len payload csum = true ↔ checksum id len payload = csum := beq_iff_eq

theorem csumOk_eq_false {id len csum : Byte} {payload : List Byte} :
    csumOk id len payload csum = false ↔ checksum id len payload ≠ csum := beq_eq_false_iff_ne

/-- A frame whose checksum is not that of a frame that passed the check, with the same checksum byte, fails it. -/
theorem csumOk_eq_false_of_checksum_ne {id id' len csum : Byte} {payload payload' : List Byte}
    (hok : csumOk id len payload csum = true) (hne : checksum id' len payload' ≠ checksum id len payload) :
    csumOk id' len payload' csum = false :=
  csumOk_eq_false.2 (csumOk_eq_true.1 hok ▸ hne)

theorem foldl_frame_eq (id len csum : Byte) (payload : List Byte) :
    (id :: len :: payload ++ [csum]).foldl (· ^^^ ·) 0 = checksum id len payload ^^^ csum := by
  simp [checksum]

/-- Settles O11: the fold of the frame's bytes is the checksum against the checksum byte, and a changed byte changes the
checksum: the id as an operand of it, a payload byte as one folded into the id. -/
theorem checksumDetectsOneChangedByte : Obligations.ChecksumDetectsOneChangedByte := by
  refine ⟨fun id len csum payload => ?_, fun id id' len csum payload hne hok => ?_,
    fun id len csum b b' before after hne hok => ?_, fun id len csum csum' payload hne hok => ?_⟩
  · rw [csumOk_eq_true, foldl_frame_eq]
    exact BitVec.xor_eq_zero_iff.symm
  · exact csumOk_eq_false_of_checksum_ne hok (checksum_id_inj.not.2 hne.symm)
  · refine csumOk_eq_false_of_checksum_ne hok ?_
    rw [checksum_middle, checksum_middle, Ne, checksum_id_inj, BitVec.xor_right_inj]
    exact hne.symm
  · exact csumOk_eq_false.2 (csumOk_eq_true.1 hok ▸ hne)

end Sys2Proof

namespace Sys2Proof.Machine

/-- Settles O8: the length is the payload's size, and the engine answers its fold. -/
theorem checksumReturnsTheFold : Obligations.ChecksumReturnsTheFold :=
  fun _ _ _ _ hlen => if_pos hlen

/-- Settles O9: the engine tests the length first. -/
theorem checksumRefusesMismatchedLength : Obligations.ChecksumRefusesMismatchedLength :=
  fun _ _ _ _ hlen => if_neg hlen

end Sys2Proof.Machine

/-! The branches of the dispatcher that test no length (43_dispatcher.md R164 to R166, R168), where the sink reports. -/

namespace Sys2Proof.Machine

/-- The answer of `get_encoders()` is the next one given, where one is. -/
theorem askEncoders_given {s : State} {given : I32 × I32} (h : s.encoderAnswers.head? = some given) :
    (askEncoders s).1 = given := by
  obtain ⟨rest, hcons⟩ := List.head?_eq_some_iff.1 h
  simp [askEncoders, hcons]

/-- Settles O37: the id selects the branch, which asks `get_encoders()` and sends its answer. -/
theorem getEncodersQueriesThenReports : Obligations.GetEncodersQueriesThenReports := by
  intro f s hc hb hs hok hid
  let asked := (askEncoders (s.output (.call .getEncoders))).2
  let answer := (askEncoders (s.output (.call .getEncoders))).1
  obtain ⟨hsame, hout, hsink, -⟩ := askEncoders_same (s.output (.call .getEncoders))
  have hs' : asked.SinkReports := by rwa [State.SinkReports, hsink]
  obtain ⟨t, ht, hsent, -⟩ := respond_next (s := asked) asked.cfg.msgEncoderData _
    ((pair32Bytes_length asked.cfg.byteOrder answer.1 answer.2).le.trans (by decide)) (hsame.txBusy.trans hb) hs'
  have hcfg : asked.cfg = s.cfg := hsame.cfg
  refine ⟨answer.1, answer.2, fun given h => askEncoders_given (s := s.output _) h, ?_,
    branches_of_decode (decodeDispatch_getEncoders hok hc hid) ht ?_⟩
  · simp [frameBytes_length]
  · rw [hsent, hout, hcfg]
    simp [pair32Bytes]

/-- Settles O38: the id selects the branch, a callback and one response. -/
theorem resetEncodersCallsThenAcks : Obligations.ResetEncodersCallsThenAcks :=
  fun _ _ hc hb hs hok hid =>
    branches_of_call_respond (decodeDispatch_resetEncoders hok hc hid) rfl (by simp) hb hs

/-- Settles O39: the id selects the branch, one response. -/
theorem pingIsAnsweredWithPong : Obligations.PingIsAnsweredWithPong :=
  fun _ s hc hb hs hok hid => branches_of_respond (s := s) (decodeDispatch_ping hok hc hid) rfl (by simp) hb hs

/-- Settles O41: no test of the id holds, and the branch left is one response. -/
theorem anyOtherIdIsAnsweredWithError : Obligations.AnyOtherIdIsAnsweredWithError :=
  fun _ s hb hs hok hid => branches_of_respond (s := s) (decodeDispatch_unknown hok hid) rfl (by simp) hb hs

end Sys2Proof.Machine

/-! The command frames without a payload, and frames of other ids or with a wrong checksum, whole, from `WaitForSOF`
(43_dispatcher.md R164 to R168, 60_exceptions.md R193, R194). -/

namespace Sys2Proof.Machine

/-- The frame of a command without a payload writes of the context the id, the length and the checksum (R115, D13). -/
theorem feed_frameBytes_nil_of_branches {s : State} {id : Byte} {i : Instr} {new : List Output} (hr : s.Ready)
    (hst : s.rx.state = .waitForSof) (hbr : Branches (goodFrameOut id []) i new (s.handedOut id [])) :
    ∃ t, feed (frameBytes s.cfg id []) s = .next t ∧ s.SameButContext t ∧
      t.outputs = s.outputs ++ .frameOut (goodFrameOut id []) :: new ∧
      t.rx = { s.rx with id := id, len := 0, csum := id } := by
  obtain ⟨t, hfeed, hctx, hout, hrx⟩ := feed_frameBytes_of_branches hr hst (Nat.zero_le _) hbr
  refine ⟨t, hfeed, hctx, hout, ?_⟩
  simp [hrx, RxContext.framed, Memory.writeList, lengthByte, hst]

/-- Settles O45: each of the four frames reaches the dispatcher, which answers it by its id. -/
theorem emptyCommandFramesAreCarriedOut : Obligations.EmptyCommandFramesAreCarriedOut := by
  intro s hc hr hs hst
  have hb := hr.notBusy
  obtain ⟨-, -, -, -, hmode⟩ := dispatched_ids_ne_of_wf hc
  obtain ⟨e1, e2, hgiven, -, hget⟩ := getEncodersQueriesThenReports (goodFrameOut s.cfg.cmdGetEncoders [])
    (s.handedOut s.cfg.cmdGetEncoders []) hc hb hs rfl rfl
  obtain ⟨t, hfeed, hctx, hout, hrx⟩ := feed_frameBytes_nil_of_branches hr hst hget
  exact ⟨feed_frameBytes_nil_of_branches hr hst (pingIsAnsweredWithPong _ (s.handedOut _ _) hc hb hs rfl rfl),
    feed_frameBytes_nil_of_branches hr hst (resetEncodersCallsThenAcks _ (s.handedOut _ _) hc hb hs rfl rfl),
    ⟨t, e1, e2, hfeed, hctx, hgiven, hout, hrx⟩,
    feed_frameBytes_nil_of_branches hr hst (anyOtherIdIsAnsweredWithError _ (s.handedOut _ _) hb hs rfl hmode)⟩

/-- Settles O49: the frame reaches the dispatcher, whose answer to the id is the Error. -/
theorem unknownCommandIsAnswered : Obligations.UnknownCommandIsAnswered := by
  intro s id payload hr hs hst hp hid
  have hbr := anyOtherIdIsAnsweredWithError (goodFrameOut id payload) (s.handedOut id payload) hr.notBusy hs rfl hid
  obtain ⟨t, hfeed, hctx, hout, hrx⟩ := feed_frameBytes_of_branches hr hst hp hbr
  exact ⟨t, hfeed, by rw [hrx], hctx, hout⟩

/-- Settles O48: the bytes before the last lead to `ReadEof`, and on `EOF` the frame is handed out with its verdict, by
which the dispatcher answers it. -/
theorem checksumMismatchIsAnswered : Obligations.ChecksumMismatchIsAnswered := by
  intro s id csum payload hr hs hst hp hne
  let framed := s.setRx (s.rx.framed id csum payload)
  let f := frameOutOf framed.rx payload
  have hbad : f.csumOk = false := csumOk_eq_false.2 hne.symm
  obtain ⟨u, hd, -, hout, hsame, -⟩ := badChecksumIsAnsweredWithError f (framed.output (.frameOut f)) hr.notBusy hs hbad
  have hctx : s.SameButContext (u.setRxState .waitForSof) :=
    (sameButContext_setRx s _).trans
      (((SameBlock_output framed _).trans hsame).sameButContext.trans (sameButContext_setRx u _))
  have hf : f = ⟨id, lengthByte payload, payload, csum, false⟩ := congrArg (FrameOut.mk id _ payload csum) hbad
  refine ⟨u.setRxState .waitForSof, ?_, rfl, hctx, ?_⟩
  · calc feed ([s.cfg.sof, id, lengthByte payload] ++ payload ++ [csum, s.cfg.eof]) s
        = feed ([s.cfg.sof, id, lengthByte payload] ++ payload ++ [csum] ++ [s.cfg.eof]) s := by simp
      _ = feed [s.cfg.eof] framed := feed_append_of_next (feed_untilEof hr id csum hst hp)
      _ = .next (u.setRxState .waitForSof) := feed_cons_of_next (rxByte_eof_framed hr hp hd)
  · rw [hf] at hout
    exact hout.trans (List.append_assoc ..)

end Sys2Proof.Machine

/-! The rows of `ReadLength` (41_receiver.md R115 to R117), the oversized length (60_exceptions.md R191), and what is
refused before it is run (42_encoder.md R146, 70_reset_and_hazards.md R222) or discarded by `RESET` (R220). -/

namespace Sys2Proof.Machine

/-- Settles O15: the decode table selects `RX.LEN.ZERO`. -/
theorem rxLenZeroSkipsThePayload : Obligations.RxLenZeroSkipsThePayload :=
  fun _ hr hst =>
    rxByte_and_exec_of_decode (op := .lenZero) (decodeRx_eq_ok_iff.2 ⟨hst, rfl⟩) (exec_rxLenZero hr hst)

/-- Settles O16: the decode table selects `RX.LEN.OK`. -/
theorem rxLenOkStartsThePayload : Obligations.RxLenOkStartsThePayload := by
  intro s b hr hst hpos hle
  have hb : 0 < b.toNat ∧ b.toNat < 255 := ⟨hpos, Nat.lt_succ_of_le hle⟩
  exact rxByte_and_exec_of_decode (op := .lenOk) (decodeRx_eq_ok_iff.2 ⟨hst, hb⟩)
    (exec_rxLenOk hr hst (lengthAccepted_eq_true.2 hb))

/-- Settles O17: the decode table selects `RX.LEN.OVER`. -/
theorem rxLenOverAbandonsTheFrame : Obligations.RxLenOverAbandonsTheFrame :=
  fun _ hr hst =>
    rxByte_and_exec_of_decode (op := .lenOver) (decodeRx_eq_ok_iff.2 ⟨hst, le_refl 255⟩) (exec_rxLenOver hr hst rfl)

/-- Settles O46: the third byte is an oversized length, on which the receiver is back in `WaitForSOF`. -/
theorem oversizedLengthIsSilent : Obligations.OversizedLengthIsSilent := by
  intro s id hr hst
  let sId := s.setRxState .readId
  let sLength := s.setRx { s.rx with id := id, state := .readLength }
  obtain ⟨hsof, -⟩ := rxWaitSofMovesToReadId s hr hst
  obtain ⟨hid, -⟩ := rxIdStoresTheId sId id (hr.setRx _) rfl
  obtain ⟨hover, -⟩ := rxLenOverAbandonsTheFrame sLength (hr.setRx _) rfl
  calc feed [s.cfg.sof, id, 0xFF] s = feed [id, 0xFF] sId := feed_cons_of_next hsof
    _ = feed [0xFF] sLength := feed_cons_of_next hid
    _ = .next (s.setRx { s.rx with id := id, len := 0xFF, state := .waitForSof }) := feed_cons_of_next hover
    _ = .next { s with rx := { s.rx with id := id, len := 0xFF } } := by rw [← hst]; rfl

/-- Settles O31: `ENCODE` is one `Encode`, which tests the payload's size first. -/
theorem encodeRefusesLongPayloads : Obligations.EncodeRefusesLongPayloads := by
  intro s id payload hp
  have hlong : Config.maxPayload < payload.length := hp
  have hsend : encodeSend id payload s = .refused .payloadTooLong := if_pos hlong
  show encodeCall id payload s = _
  rw [encodeCall, hsend]

/-- A transition before any `Reset` is refused, whatever its condition (R222). -/
theorem runTransition_of_neverReset (op : RxOp) (b : Byte) {s : State} (h : s.wasReset = false) :
    runTransition op b s = .refused .neverReset := by
  cases op <;> exact if_pos h

/-- Settles O53: the decode table rejects the byte, or the transition it selects is refused. -/
theorem rxByteBeforeResetIsRefused : Obligations.RxByteBeforeResetIsRefused := by
  intro s b h
  have hrefused : ∃ r, rxByte b s = .refused r := by
    cases hd : decodeRx s.cfg s.rx.state b s.rx.idx s.rx.len with
    | ok op => exact ⟨_, (rxByte_of_decode hd).trans (runTransition_of_neverReset op b h)⟩
    | error e => exact ⟨_, rxByte_of_decode_error hd⟩
  obtain ⟨r, hr⟩ := hrefused
  rw [hr]
  exact ⟨nofun, nofun⟩

/-- Settles O51: `RESET` answers in every state, and each of the fields is as it writes or leaves it. -/
theorem resetDiscardsTheFrameInProgress : Obligations.ResetDiscardsTheFrameInProgress :=
  fun _ => ⟨_, rfl, rfl, rfl, rfl, rfl, rfl, rfl, rfl, rfl⟩

end Sys2Proof.Machine
